-- ==== Sys2Proof/Word.lean ====
section
/-! DEFINITION. The widths of the block: bytes, 16-bit words, 40-bit commands, 7-bit bus addresses. -/

namespace Sys2Proof

/-- Eight bits: one byte of a bus transaction, an opcode, a register pointer. -/
abbrev Byte := BitVec 8

/-- Sixteen bits: an operand, a result, a two-byte register of the sensor. -/
abbrev Word := BitVec 16

/-- A command word `CMD[39:0]` (R80). -/
abbrev Cmd := BitVec 40

/-- A bus address, 7 bits (R23, parameter ADDR_WIDTH of R6). -/
abbrev Addr7 := BitVec 7

end Sys2Proof
end

