-- ==== Sys2Proof/Config.lean ====
section
/-! DEFINITION. The parameters of R6 and the names of R27 and R28: register pointers, default address, least gap,
the configuration table FIELD_POS, and the four open identity parameters with their defaults. -/

namespace Sys2Proof

/-- The eight fields of the configuration register, in the order of their ids (R26, R90). -/
inductive CfgField where
  | powerMode | hysteresis | lockState | alertEnable
  | alertPolarity | alertMode | alertResponse | intClear
deriving DecidableEq, Repr

/-- Where a field stands in `CFG`: the shift of its lowest bit and its width in bits. -/
structure FieldPos where
  shift : Nat
  width : Nat
deriving DecidableEq, Repr

namespace Config

/-- FIELD_POS: the table of R27. -/
def fieldPos : CfgField → FieldPos
  | .powerMode     => ⟨8, 1⟩
  | .hysteresis    => ⟨9, 2⟩
  | .lockState     => ⟨6, 2⟩
  | .alertEnable   => ⟨3, 1⟩
  | .alertPolarity => ⟨1, 1⟩
  | .alertMode     => ⟨0, 1⟩
  | .alertResponse => ⟨2, 1⟩
  | .intClear      => ⟨5, 1⟩

/-- REG_CONFIG (R6, R57). -/
def regConfig : Byte := 0x01
/-- REG_T_UPPER (R6, R57). -/
def regTUpper : Byte := 0x02
/-- REG_T_LOWER (R6, R57). -/
def regTLower : Byte := 0x03
/-- REG_T_CRIT (R6, R57). -/
def regTCrit : Byte := 0x04
/-- REG_TEMPERATURE (R6, R57). -/
def regTemperature : Byte := 0x05
/-- REG_MANUFACTURER_ID (R6, R57). -/
def regManufacturerId : Byte := 0x06
/-- REG_DEVICE_ID (R6, R57). -/
def regDeviceId : Byte := 0x07
/-- REG_RESOLUTION (R6, R57). -/
def regResolution : Byte := 0x08

/-- DEFAULT_ADDR: the bus address after reset (R6, R35). -/
def defaultAddr : Addr7 := 0x18

/-- MIN_GAP: the least allowed `upper - lower`, in hundredths of a degree (R6). -/
def minGap : Int := 200

/-- RES_CODES: the codes of the four resolutions are 0 to this one (R6, R183). -/
def maxResCode : Nat := 3

end Config

/-- The four open parameters of R6: what `INIT` expects of the two identity registers. -/
structure Params where
  /-- EXPECTED_DEVICE_ID -/
  expectedDeviceId : Byte
  /-- DEVID_BYTE_INDEX: 0 is the byte received first -/
  devIdByteIndex : Fin 2
  /-- EXPECTED_MANUFACTURER_ID -/
  expectedManufacturerId : Byte
  /-- MFRID_BYTE_INDEX -/
  mfrIdByteIndex : Fin 2
deriving DecidableEq, Repr

/-- The defaults R6 gives the open parameters. -/
def Config.defaultParams : Params :=
  { expectedDeviceId := 0x04, devIdByteIndex := 0, expectedManufacturerId := 0x54, mfrIdByteIndex := 1 }

/-- The members of the lock-state enumeration (R28). -/
inductive LockState where
  | unlocked | windowLocked | critLocked | critWindowLocked
deriving DecidableEq, Repr

end Sys2Proof
end

