-- ==== Sys2Proof/Machine/Operands.lean ====
section
/-! DEFINITION. Operand forms of R82 (slices, values, validity), field ids of R90, and the byte order of R53. -/

namespace Sys2Proof.Machine

/-! ### Bytes of a two-byte register (R7, R53) -/

/-- `byte0`, the byte that travels first: `w[15:8]`. -/
def hiByte (w : Word) : Byte := w.extractLsb' 8 8

/-- `byte1`: `w[7:0]`. -/
def loByte (w : Word) : Byte := w.extractLsb' 0 8

/-- `byte0 * 256 + byte1` (R7). -/
def wordOf (b0 b1 : Byte) : Word := b0 ++ b1

/-- The word two received bytes make, first byte first (R51, R53); a missing byte counts as 0, which no answer
that passes the port's length check (R50) ever needs. -/
def wordOfBytes (bs : List Byte) : Word := wordOf (bs.getD 0 0) (bs.getD 1 0)

/-- The bytes of a two-byte write, most significant first (R52). -/
def bytesOfWord (w : Word) : List Byte := [hiByte w, loByte w]

/-- The byte of a two-byte register at an index, 0 being the byte received first (R6, R180). -/
def byteAt (i : Fin 2) (w : Word) : Byte := if i = 0 then hiByte w else loByte w

/-! ### TOP16 (R9, R82) -/

/-- `s`: bit 15. -/
def topSign (w : Word) : BitVec 1 := w.extractLsb' 15 1

/-- `I`: bits 14:7. -/
def topInt (w : Word) : BitVec 8 := w.extractLsb' 7 8

/-- `F`: bits 6:0. -/
def topFrac (w : Word) : BitVec 7 := w.extractLsb' 0 7

/-- A TOP16 operand is valid when `F <= 99` (R82). -/
def topValid (w : Word) : Bool := (topFrac w).toNat ≤ 99

/-- `val(TOP16) = (1 - 2*s) * (100*I + F)`, in hundredths of a degree (R9). -/
def topVal (w : Word) : Int :=
  (1 - 2 * ((topSign w).toNat : Int)) * (100 * ((topInt w).toNat : Int) + ((topFrac w).toNat : Int))

/-! ### Fields of the configuration register (R27, R28, R90) -/

/-- `width_f` (R27). -/
def fieldWidth (f : CfgField) : Nat := (Config.fieldPos f).width

/-- `shift_f` (R27). -/
def fieldShift (f : CfgField) : Nat := (Config.fieldPos f).shift

/-- `mask_f` (R27). -/
def fieldMask (f : CfgField) : Word := BitVec.ofNat 16 (2 ^ fieldWidth f - 1) <<< fieldShift f

/-- The field of an id (R90); none for an id above 7. -/
def fieldOfId : Nat → Option CfgField
  | 0 => some .powerMode
  | 1 => some .hysteresis
  | 2 => some .lockState
  | 3 => some .alertEnable
  | 4 => some .alertPolarity
  | 5 => some .alertMode
  | 6 => some .alertResponse
  | 7 => some .intClear
  | _ => none

/-- The id of a field (R90). -/
def idOfField : CfgField → Nat
  | .powerMode => 0
  | .hysteresis => 1
  | .lockState => 2
  | .alertEnable => 3
  | .alertPolarity => 4
  | .alertMode => 5
  | .alertResponse => 6
  | .intClear => 7

/-- An ENUM16 operand for a field is valid when the whole number fits the field (R28, R82, R86). -/
def enumValid (f : CfgField) (v : Word) : Bool := v.toNat < 2 ^ fieldWidth f

/-- A resolution code is valid when it is at most 3 (R183). -/
def resValid (v : Word) : Bool := v.toNat ≤ Config.maxResCode

/-- FIDVAL16: the field id, bits 15:8 (R82). -/
def fidvalId (w : Word) : Byte := w.extractLsb' 8 8

/-- FIDVAL16: the field value, bits 7:0 (R82). -/
def fidvalValue (w : Word) : Byte := w.extractLsb' 0 8

/-- A FIDVAL16 operand is valid when its id is 0 to 7 and its value fits that field (R82). -/
def fidvalValid (w : Word) : Bool :=
  match fieldOfId (fidvalId w).toNat with
  | some f => enumValid f ((fidvalValue w).setWidth 16)
  | none => false

/-- An ADDR16 operand is valid when it is at most 0x7F (R82). -/
def addrValid (v : Word) : Bool := v.toNat ≤ 0x7F

end Sys2Proof.Machine
end

