-- ==== Sys2Proof/Syntax.lean ====
section
/-! DEFINITION. The 28 commands of R84, one constructor per row of the opcode table, each with the operands it uses.
An operand is the whole 16-bit number presented (R82, R86); operand bits a command ignores are no part of it. -/

namespace Sys2Proof

inductive Instr where
  /-- R113: a raw temperature register value -/
  | decTemp (opa : Word)
  /-- R115: a TOP16 temperature -/
  | encThr (opa : Word)
  /-- R116: a raw temperature register value -/
  | decFlags (opa : Word)
  /-- R118: a configuration word and a field id -/
  | cfgGet (opa opb : Word)
  /-- R119: a configuration word, and a field id with a value -/
  | cfgPut (opa opb : Word)
  /-- R180 -/
  | init
  /-- R181 -/
  | getTemp
  /-- R182 -/
  | getFlags
  /-- R183: a resolution code -/
  | setResolution (opa : Word)
  /-- R184: upper and lower TOP16 thresholds -/
  | setWindow (opa opb : Word)
  /-- R185: a TOP16 threshold -/
  | setCrit (opa : Word)
  /-- R152 -/
  | clearInt
  /-- R186: a bus address -/
  | setAddr (opa : Word)
  /-- R145 -/
  | setPower (opa : Word)
  /-- R146 -/
  | setHyst (opa : Word)
  /-- R147 -/
  | setLock (opa : Word)
  /-- R148 -/
  | setAlertEn (opa : Word)
  /-- R149 -/
  | setAlertPol (opa : Word)
  /-- R150 -/
  | setAlertMode (opa : Word)
  /-- R151 -/
  | setAlertResp (opa : Word)
  /-- R154 -/
  | getPower
  /-- R155 -/
  | getHyst
  /-- R156 -/
  | getLock
  /-- R157 -/
  | getAlertEn
  /-- R158 -/
  | getAlertPol
  /-- R159 -/
  | getAlertMode
  /-- R160 -/
  | getAlertResp
  /-- R161 -/
  | getIntClear
deriving DecidableEq, Repr

end Sys2Proof
end

