-- ==== Sys2Proof/WellFormed.lean ====
section
/-! DEFINITION. Operand validity, the "valid when" column of R82. Every term of Instr is a command with an encoding:
an operand that is not valid "does not make the command illegal: the command is accepted", and its operation ends
with InvalidParameter at the step its rule gives (R82). WellFormed tells the valid terms from the others; decoding,
encoding and exec are total on both. -/

namespace Sys2Proof

open Sys2Proof.Machine

/-- Every operand of the command is valid in its form (R82). -/
def Instr.wellFormed : Instr → Bool
  | .decTemp _ => true
  | .encThr a => topValid a
  | .decFlags _ => true
  | .cfgGet _ b => (fieldOfId b.toNat).isSome
  | .cfgPut _ b => fidvalValid b
  | .init => true
  | .getTemp => true
  | .getFlags => true
  | .setResolution a => resValid a
  | .setWindow a b => topValid a && topValid b
  | .setCrit a => topValid a
  | .clearInt => true
  | .setAddr a => addrValid a
  | .setPower a => enumValid .powerMode a
  | .setHyst a => enumValid .hysteresis a
  | .setLock a => enumValid .lockState a
  | .setAlertEn a => enumValid .alertEnable a
  | .setAlertPol a => enumValid .alertPolarity a
  | .setAlertMode a => enumValid .alertMode a
  | .setAlertResp a => enumValid .alertResponse a
  | .getPower => true
  | .getHyst => true
  | .getLock => true
  | .getAlertEn => true
  | .getAlertPol => true
  | .getAlertMode => true
  | .getAlertResp => true
  | .getIntClear => true

end Sys2Proof
end

