-- ==== Sys2Proof/Decode.lean ====
section
/-! DEFINITION. Decoding and encoding of the 40-bit command word (R80, R84, R85, R86). Decoding is total: a word either
is one of the 28 commands or is refused by the name of its reserved opcode. -/

namespace Sys2Proof

/-- Why a word is no command of R84. -/
inductive DecodeError where
  /-- The opcode is not in the table of R84 (R85). -/
  | reservedOpcode (opc : Byte)
deriving DecidableEq, Repr

/-- `CMD[39:32]` (R80). -/
def opcField (w : Cmd) : Byte := w.extractLsb' 32 8

/-- `CMD[31:16]` (R80). -/
def opaField (w : Cmd) : Word := w.extractLsb' 16 16

/-- `CMD[15:0]` (R80). -/
def opbField (w : Cmd) : Word := w.extractLsb' 0 16

/-- The command of an opcode with its operands (R84); a reserved opcode is refused by name (R85). -/
def decodeFields (opc : Byte) (a b : Word) : Except DecodeError Instr :=
  match opc.toNat with
  | 0x01 => .ok (.decTemp a)
  | 0x02 => .ok (.encThr a)
  | 0x03 => .ok (.decFlags a)
  | 0x04 => .ok (.cfgGet a b)
  | 0x05 => .ok (.cfgPut a b)
  | 0x10 => .ok .init
  | 0x11 => .ok .getTemp
  | 0x12 => .ok .getFlags
  | 0x13 => .ok (.setResolution a)
  | 0x14 => .ok (.setWindow a b)
  | 0x15 => .ok (.setCrit a)
  | 0x16 => .ok .clearInt
  | 0x17 => .ok (.setAddr a)
  | 0x20 => .ok (.setPower a)
  | 0x21 => .ok (.setHyst a)
  | 0x22 => .ok (.setLock a)
  | 0x23 => .ok (.setAlertEn a)
  | 0x24 => .ok (.setAlertPol a)
  | 0x25 => .ok (.setAlertMode a)
  | 0x26 => .ok (.setAlertResp a)
  | 0x30 => .ok .getPower
  | 0x31 => .ok .getHyst
  | 0x32 => .ok .getLock
  | 0x33 => .ok .getAlertEn
  | 0x34 => .ok .getAlertPol
  | 0x35 => .ok .getAlertMode
  | 0x36 => .ok .getAlertResp
  | 0x37 => .ok .getIntClear
  | _ => .error (.reservedOpcode opc)

/-- The command a word encodes, or the reason it encodes none. -/
def decode (w : Cmd) : Except DecodeError Instr :=
  decodeFields (opcField w) (opaField w) (opbField w)

/-- The opcode of a command (R84). -/
def Instr.opcode : Instr → Byte
  | .decTemp _ => 0x01
  | .encThr _ => 0x02
  | .decFlags _ => 0x03
  | .cfgGet _ _ => 0x04
  | .cfgPut _ _ => 0x05
  | .init => 0x10
  | .getTemp => 0x11
  | .getFlags => 0x12
  | .setResolution _ => 0x13
  | .setWindow _ _ => 0x14
  | .setCrit _ => 0x15
  | .clearInt => 0x16
  | .setAddr _ => 0x17
  | .setPower _ => 0x20
  | .setHyst _ => 0x21
  | .setLock _ => 0x22
  | .setAlertEn _ => 0x23
  | .setAlertPol _ => 0x24
  | .setAlertMode _ => 0x25
  | .setAlertResp _ => 0x26
  | .getPower => 0x30
  | .getHyst => 0x31
  | .getLock => 0x32
  | .getAlertEn => 0x33
  | .getAlertPol => 0x34
  | .getAlertMode => 0x35
  | .getAlertResp => 0x36
  | .getIntClear => 0x37

/-- The two operands a command's word carries; an unused operand is 0 (R88). -/
def Instr.operands : Instr → Word × Word
  | .decTemp a => (a, 0)
  | .encThr a => (a, 0)
  | .decFlags a => (a, 0)
  | .cfgGet a b => (a, b)
  | .cfgPut a b => (a, b)
  | .init => (0, 0)
  | .getTemp => (0, 0)
  | .getFlags => (0, 0)
  | .setResolution a => (a, 0)
  | .setWindow a b => (a, b)
  | .setCrit a => (a, 0)
  | .clearInt => (0, 0)
  | .setAddr a => (a, 0)
  | .setPower a => (a, 0)
  | .setHyst a => (a, 0)
  | .setLock a => (a, 0)
  | .setAlertEn a => (a, 0)
  | .setAlertPol a => (a, 0)
  | .setAlertMode a => (a, 0)
  | .setAlertResp a => (a, 0)
  | .getPower => (0, 0)
  | .getHyst => (0, 0)
  | .getLock => (0, 0)
  | .getAlertEn => (0, 0)
  | .getAlertPol => (0, 0)
  | .getAlertMode => (0, 0)
  | .getAlertResp => (0, 0)
  | .getIntClear => (0, 0)

/-- The word `{opc, opa, opb}` (R80). -/
def cmdWord (opc : Byte) (a b : Word) : Cmd := opc ++ a ++ b

/-- The word of a command (R80, R84, R88). -/
def encode (i : Instr) : Cmd := cmdWord i.opcode i.operands.1 i.operands.2

/-- The instruction read from an opcode-table word: the table numbers a row's bits as R80 does, one word of 40 bits
with bit 0 least significant. There is no longer form (R87). -/
def decodeTableWord (nbits w : Nat) : Option Instr :=
  if nbits ≤ 40 then (decode (BitVec.ofNat 40 (w % 2 ^ nbits))).toOption else none

end Sys2Proof
end

