-- ==== Sys2Proof/Machine/State.lean ====
section
/-! DEFINITION. The state of the block (the tuple of R20), the state of the outside world the model needs (host, bus
collaborator, reference device), and the state after reset (R35). Plain data. -/

namespace Sys2Proof.Machine

/-- The values of the PHASE register (R24). -/
inductive Phase where
  | idle | rdCfg | check | rdData | wr1 | wr2 | rdId2
deriving DecidableEq, Repr

/-- The completion statuses (R210). -/
inductive Status where
  | ok | invalidParameter | registerLocked | thresholdRangeError | busError | identityMismatch | illegalCommand
deriving DecidableEq, Repr

/-- A request at the bus port (R50). -/
inductive BusRequest where
  /-- `Read(addr, reg, len)` -/
  | read (addr : Addr7) (reg : Byte) (len : Nat)
  /-- `Write(addr, reg, bytes)` -/
  | write (addr : Addr7) (reg : Byte) (bytes : List Byte)
deriving DecidableEq, Repr

/-- An answer at the bus port (R50). -/
inductive PortAnswer where
  /-- `Data(b0, ..)`, first byte first -/
  | data (bytes : List Byte)
  | ack
  | error
deriving DecidableEq, Repr

/-- What the bus collaborator does next (R50, R60). -/
inductive BusEvent where
  /-- It answers the outstanding request so. -/
  | answer (a : PortAnswer)
  /-- It gives no answer yet (R51): the operation waits, and this step of the machine ends. -/
  | silent
  /-- It passes the request to the reference device and answers what that answers (R62). -/
  | device
  /-- No answer: the device's register changes by itself or by another user of the bus (R56, R64). -/
  | change (reg : Byte) (value : Word)
deriving DecidableEq, Repr

/-- What the host does next. -/
inductive HostInput where
  /-- It presents a command word (R80). -/
  | command (w : Cmd)
  /-- It resets the block (R240). -/
  | reset
deriving DecidableEq, Repr

/-- Bytes by address, addresses strictly rising, no byte equal to what an unlisted address reads as (`Memory.wf`). -/
abbrev Memory := List Host.Cell

/-- Why the machine stops. -/
inductive Fault where
  /-- Raised by an operation's continuation in a state whose PHASE that operation does not have (R162, R24): the spec
  gives such a state no meaning and no run from reset reaches one. Safe. -/
  | phaseOutOfPlace
deriving DecidableEq, Repr

/-- Why a command has no meaning. -/
inductive Refusal where
  /-- Raised by exec's arm for a command that has no meaning yet; no arm does. Safe. -/
  | notModelled (mnemonic : String)
deriving DecidableEq, Repr

/-- The block's registers (R20 to R25, R33), its parameters (R6), and the outside world. -/
structure State where
  /-- OPC: the opcode of the accepted command (R21) -/
  opc : Byte
  /-- OPA: its first operand (R21) -/
  opa : Word
  /-- OPB: its second operand (R21) -/
  opb : Word
  /-- RES: the result of the last operation (R22) -/
  res : Word
  /-- STATUS: the completion status of the last operation, as its code (R33, R210) -/
  status : BitVec 4
  /-- PCR: the power-cycle-required marker (R33, R225) -/
  pcr : Bool
  /-- DEV_ADDR: the bus address of every transaction (R23) -/
  devAddr : Addr7
  /-- PHASE (R24) -/
  phase : Phase
  /-- CFGBUF: the configuration word read (R25) -/
  cfgBuf : Word
  /-- RDBUF: the other word read (R25) -/
  rdBuf : Word
  /-- the open parameters (R6): no step changes them -/
  params : Params
  /-- what the host does next, oldest first (R80, R240) -/
  hostIn : List HostInput
  /-- what the bus collaborator does next, oldest first (R50, R60) -/
  script : List BusEvent
  /-- the address at which the reference device stands, if one is attached (R62) -/
  refDev : Option Addr7
  /-- the bytes of the reference device's registers (R62) -/
  devMem : Memory
  /-- the bus transactions issued so far, oldest first (R10) -/
  trace : List BusRequest
deriving DecidableEq, Repr

/-- The block right after reset (R35, R240). The five registers R35 leaves unspecified hold 0 (DESIGN CHOICE, log 1);
the parameters are at their defaults (R6); nothing is presented, answered, attached or issued. -/
def State.reset : State :=
  { opc := 0, opa := 0, opb := 0, res := 0, status := 0, pcr := false, devAddr := Config.defaultAddr,
    phase := .idle, cfgBuf := 0, rdBuf := 0, params := Config.defaultParams,
    hostIn := [], script := [], refDev := none, devMem := [], trace := [] }

end Sys2Proof.Machine
end

