-- ==== Sys2Proof/Machine/Flags.lean ====
section
/-! DEFINITION. The two status items of R33, STATUS and PCR, and the response the host reads (R81). -/

namespace Sys2Proof.Machine

/-- The code of a status (R210). -/
def Status.code : Status → BitVec 4
  | .ok => 0
  | .invalidParameter => 1
  | .registerLocked => 2
  | .thresholdRangeError => 3
  | .busError => 4
  | .identityMismatch => 5
  | .illegalCommand => 6

/-- PCR is 1 exactly when the status is RegisterLocked (R33, R225). -/
def Status.powerCycleRequired : Status → Bool
  | .registerLocked => true
  | .ok | .invalidParameter | .thresholdRangeError | .busError | .identityMismatch | .illegalCommand => false

/-- The end of an operation writes STATUS, PCR, RES and PHASE, and nothing else (R218, R219). -/
def State.finish (st : Status) (v : Word) (s : State) : State :=
  { s with status := st.code, pcr := st.powerCycleRequired, res := v, phase := .idle }

/-- The response word: `RSP[20:17]` STATUS, `RSP[16]` PCR, `RSP[15:0]` RES (R81). -/
def State.rsp (s : State) : BitVec 21 := s.status ++ BitVec.ofBool s.pcr ++ s.res

/-- What the host can read: the response, whenever PHASE is IDLE (R22, R33). -/
def State.response (s : State) : Option (BitVec 21) := if s.phase = .idle then some s.rsp else none

end Sys2Proof.Machine
end

