-- ==== Sys2Proof/Machine/Ops.lean ====
section
/-! DEFINITION. The shared operations: memory, the reference device (R62), the bus port (R50 to R52), ending an
operation (R218, R219), accepting a command (R80), reset (R240). -/

namespace Sys2Proof.Machine

/-- What a step of the machine answers. -/
abbrev Result := Host.Outcome State Fault Refusal

/-! ### Memory -/

/-- What an unlisted address reads as (DESIGN CHOICE, log 7). -/
def unlistedByte : Byte := 0

/-- The byte at an address. -/
def Memory.read : Memory → Nat → Byte
  | [], _ => unlistedByte
  | (k, b) :: m, a => if k = a then b else Memory.read m a

/-- Store one byte, keeping the canonical form. -/
def Memory.write : Memory → Nat → Byte → Memory
  | [], a, v => if v = unlistedByte then [] else [(a, v)]
  | (k, b) :: m, a, v =>
    if a < k then (if v = unlistedByte then (k, b) :: m else (a, v) :: (k, b) :: m)
    else if a = k then (if v = unlistedByte then m else (a, v) :: m)
    else (k, b) :: Memory.write m a v

/-- All addresses are at least `lo` and rise strictly, and no byte is the unlisted one. -/
def Memory.wfFrom : Nat → Memory → Bool
  | _, [] => true
  | lo, (k, b) :: m => decide (lo ≤ k) && b != unlistedByte && Memory.wfFrom (k + 1) m

/-- The canonical form. -/
def Memory.wf (m : Memory) : Bool := Memory.wfFrom 0 m

/-- The bytes from an address on. -/
def Memory.readBytes (m : Memory) : Nat → Nat → List Byte
  | _, 0 => []
  | a, n + 1 => m.read a :: Memory.readBytes m (a + 1) n

/-- Store bytes from an address on. -/
def Memory.writeBytes : Memory → Nat → List Byte → Memory
  | m, _, [] => m
  | m, a, b :: bs => Memory.writeBytes (m.write a b) (a + 1) bs

/-! ### The reference device (R62) -/

/-- Where the register at a pointer stands in the device's memory: two bytes a register, high byte first (R53). -/
def regAddr (reg : Byte) : Nat := 2 * reg.toNat

/-- The pointers of the map (R57). -/
def inRegMap (reg : Byte) : Bool := decide (1 ≤ reg.toNat) && decide (reg.toNat ≤ 8)

/-- The 16-bit value the device holds at a pointer. -/
def devReg (m : Memory) (reg : Byte) : Word := wordOf (m.read (regAddr reg)) (m.read (regAddr reg + 1))

/-- The bytes the device stores for a write: as sent, but on CONFIG a set lock bit stays set (R62). CONFIG is always stored
as two bytes: a byte that a shorter write lacks counts as 0, a third is dropped. R62 says nothing of such a write and the
block never issues one (R55) (DESIGN CHOICE, log 14). -/
def storedBytes (m : Memory) (reg : Byte) (bs : List Byte) : List Byte :=
  if reg = Config.regConfig then
    bytesOfWord (wordOfBytes bs ||| (devReg m Config.regConfig &&& fieldMask .lockState))
  else bs

/-- The address a request carries. -/
def BusRequest.addr : BusRequest → Addr7
  | .read a _ _ => a
  | .write a _ _ => a

/-- The register pointer a request carries. -/
def BusRequest.reg : BusRequest → Byte
  | .read _ r _ => r
  | .write _ r _ => r

/-- The answer of the reference device at address `a`, and its bytes afterwards (R62). -/
def refDevServe (a : Addr7) (req : BusRequest) (m : Memory) : PortAnswer × Memory :=
  if req.addr = a ∧ inRegMap req.reg = true then
    match req with
    | .read _ reg n => (.data (m.readBytes (regAddr reg) n), m)
    | .write _ reg bs => (.ack, m.writeBytes (regAddr reg) (storedBytes m reg bs))
  else (.error, m)

/-- A register of the device takes a value from outside the block (R56, R64): RESOLUTION is 8 bits (R62). -/
def devChange (reg : Byte) (v : Word) (m : Memory) : Memory :=
  if reg = Config.regResolution then m.writeBytes (regAddr reg) [loByte v]
  else m.writeBytes (regAddr reg) (bytesOfWord v)

/-! ### The bus port (R50, R51, R52) -/

/-- The answer as the port delivers it: an answer of another length or kind than the request has become Error
(R50, decision D17). -/
def BusRequest.deliver : BusRequest → PortAnswer → PortAnswer
  | .read _ _ n, .data bs => if bs.length = n then .data bs else .error
  | .read _ _ _, .ack => .error
  | .read _ _ _, .error => .error
  | .write _ _ _, .data _ => .error
  | .write _ _ _, .ack => .ack
  | .write _ _ _, .error => .error

/-- What the collaborator does with the outstanding request: its answer, if it gives one now, what is left of its
script, and the device's bytes. With nothing scripted an attached device answers, and without one there is no answer. -/
def serve (req : BusRequest) (dev : Option Addr7) : List BusEvent → Memory → Option PortAnswer × List BusEvent × Memory
  | [], m =>
    match dev with
    | none => (none, [], m)
    | some a => (some (refDevServe a req m).1, [], (refDevServe a req m).2)
  | .answer a :: es, m => (some (req.deliver a), es, m)
  | .silent :: es, m => (none, es, m)
  | .device :: es, m =>
    match dev with
    | none => (some .error, es, m)
    | some a => (some (refDevServe a req m).1, es, (refDevServe a req m).2)
  | .change reg v :: es, m => serve req dev es (devChange reg v m)

/-- The collaborator's answer to the outstanding request, none while it gives none. -/
def State.answer (req : BusRequest) (s : State) : Option PortAnswer := (serve req s.refDev s.script s.devMem).1

/-- The state once the collaborator has acted on the outstanding request. -/
def State.served (req : BusRequest) (s : State) : State :=
  { s with script := (serve req s.refDev s.script s.devMem).2.1
           devMem := (serve req s.refDev s.script s.devMem).2.2 }

/-- Enter a phase (R24). -/
def State.enter (ph : Phase) (s : State) : State := { s with phase := ph }

/-- Enter a phase by issuing its bus request (R51, R52). -/
def State.issue (ph : Phase) (req : BusRequest) (s : State) : State :=
  { s with phase := ph, trace := s.trace ++ [req] }

/-- `x[CFGBUF] <- w`. -/
def State.setCfgBuf (w : Word) (s : State) : State := { s with cfgBuf := w }

/-- `x[RDBUF] <- w`. -/
def State.setRdBuf (w : Word) (s : State) : State := { s with rdBuf := w }

/-- `x[DEV_ADDR] <- a`. -/
def State.setDevAddr (a : Addr7) (s : State) : State := { s with devAddr := a }

/-- The request of `MemRead(reg, 2)` (R51); every read is two bytes long (R55). -/
def State.readReq (reg : Byte) (s : State) : BusRequest := .read s.devAddr reg 2

/-- The request of `MemWrite(reg, 2, v)` (R52). -/
def State.writeReq (reg : Byte) (v : Word) (s : State) : BusRequest := .write s.devAddr reg (bytesOfWord v)

/-- The request of `MemWrite(reg, 1, v)` (R52): the one-byte write of RESOLUTION (R55). -/
def State.writeByteReq (reg : Byte) (v : Word) (s : State) : BusRequest := .write s.devAddr reg [loByte v]

/-- ABORT, the block's exception entry (R218): `raise S` writes STATUS, PCR, RES = 0 and PHASE = IDLE, and stops. -/
def raise (st : Status) (s : State) : Result := .next (s.finish st 0)

/-- COMPLETION (R219): `done(v)`. There is no return from an abort: nothing is saved or restored (R220). -/
def done (v : Word) (s : State) : Result := .next (s.finish .ok v)

/-- Wait for the answer of an outstanding two-byte read (R51): with data the operation goes on, with Error it ends with
BusError, with no answer it stays in its phase. -/
def awaitRead (req : BusRequest) (k : Word → State → Result) (s : State) : Result :=
  match s.answer req with
  | none => .next (s.served req)
  | some (.data bs) => k (wordOfBytes bs) (s.served req)
  | some .ack => raise .busError (s.served req)
  | some .error => raise .busError (s.served req)

/-- Wait for the answer of an outstanding write (R52). -/
def awaitWrite (req : BusRequest) (k : State → Result) (s : State) : Result :=
  match s.answer req with
  | none => .next (s.served req)
  | some .ack => k (s.served req)
  | some (.data _) => raise .busError (s.served req)
  | some .error => raise .busError (s.served req)

/-- An operation that issues no transaction: from IDLE through CHECK back to IDLE (R110, R186). -/
def checkOnly (k : State → Result) (s : State) : Result :=
  match s.phase with
  | .idle | .check => k (s.enter .check)
  | .rdCfg | .rdData | .wr1 | .wr2 | .rdId2 => .fault .phaseOutOfPlace

/-! ### The command port and reset -/

/-- A presented command is accepted, loading OPC, OPA and OPB together, when PHASE is IDLE; otherwise it has no effect
(R80). -/
def State.accept (w : Cmd) (s : State) : State :=
  if s.phase = .idle then { s with opc := opcField w, opa := opaField w, opb := opbField w } else s

/-- What the host has yet to do. -/
def State.setHostIn (l : List HostInput) (s : State) : State := { s with hostIn := l }

/-- Reset of the block at any moment (R240): the block's registers as after reset, an operation in progress abandoned, no
transaction issued, the sensor and the rest of the outside world as they are. -/
def State.blockReset (s : State) : State :=
  { State.reset with params := s.params, hostIn := s.hostIn, script := s.script, refDev := s.refDev,
                     devMem := s.devMem, trace := s.trace }

/-- A command at the command port, so that the next step accepts it (log 4). -/
def State.presentFirst (w : Cmd) (s : State) : State :=
  { s with phase := .idle, hostIn := .command w :: s.hostIn }

end Sys2Proof.Machine
end

