-- ==== Sys2Proof/Machine/Codec.lean ====
section
/-! DEFINITION. The register codec: its pure functions (R111, R112, R114, R117) and the five commands that expose them
(R113, R115, R116, R118, R119). -/

namespace Sys2Proof.Machine

/-- `decimalBin(F)` (R111). -/
def decimalBin (F : BitVec 7) : BitVec 4 :=
  if F.toNat = 0 then 0
  else if F.toNat ≤ 25 then 4
  else if F.toNat ≤ 49 then 8
  else 12

/-- `W[11:0]`, the magnitude in sixteenths of a degree (R112). -/
def magnitude (w : Word) : BitVec 12 := w.extractLsb' 0 12

/-- `decT(W)` (R112): with the sign bit set the literal `4096 - m`. -/
def decT (w : Word) : BitVec 13 :=
  if w.getLsbD 12 then 4096#13 - (magnitude w).setWidth 13 else (magnitude w).setWidth 13

/-- `encT(s, I, F)`, the THR16 word of a temperature: `0b000`, sign, integer part, quarter-degree code (R9, R114). -/
def encT (s : BitVec 1) (I : BitVec 8) (F : BitVec 7) : Word := 0#3 ++ s ++ I ++ decimalBin F

/-- `encT` of a TOP16 operand (R115). -/
def encTop (w : Word) : Word := encT (topSign w) (topInt w) (topFrac w)

/-- The three flag bits `W[15:13]` (R116). -/
def flagBits (w : Word) : BitVec 3 := w.extractLsb' 13 3

/-- `cfg_get(f, W)` (R117). -/
def cfgGet (f : CfgField) (w : Word) : Word := (w &&& fieldMask f) >>> fieldShift f

/-- `cfg_put(f, W, v)` (R117). -/
def cfgPut (f : CfgField) (w v : Word) : Word := (w &&& ~~~ fieldMask f) ||| (v <<< fieldShift f)

/-- DEC_TEMP (R113). -/
def execDecTemp (a : Word) (s : State) : Result :=
  checkOnly (done ((decT a).setWidth 16)) s

/-- ENC_THR (R115). -/
def execEncThr (a : Word) (s : State) : Result :=
  checkOnly (fun t => if topValid a then done (encTop a) t else raise .invalidParameter t) s

/-- DEC_FLAGS (R116). -/
def execDecFlags (a : Word) (s : State) : Result :=
  checkOnly (done ((flagBits a).setWidth 16)) s

/-- CFG_GET (R118). -/
def execCfgGet (a b : Word) (s : State) : Result :=
  checkOnly (fun t =>
    match fieldOfId b.toNat with
    | some f => done (cfgGet f a) t
    | none => raise .invalidParameter t) s

/-- CFG_PUT (R119). -/
def execCfgPut (a b : Word) (s : State) : Result :=
  checkOnly (fun t =>
    match fieldOfId (fidvalId b).toNat with
    | some f =>
      if enumValid f ((fidvalValue b).setWidth 16) then done (cfgPut f a ((fidvalValue b).setWidth 16)) t
      else raise .invalidParameter t
    | none => raise .invalidParameter t) s

end Sys2Proof.Machine
end

