-- ==== Sys2Proof/Machine/ConfigRmw.lean ====
section
/-! DEFINITION. The read-modify-write sequencer and the lock guard (R140, R141), the seven field setters (R145 to R151),
CLEAR_INT (R152) and the eight field getters (R153 to R161). Each operation is written phase by phase, so that a step
that finds it waiting for a bus answer goes on where it stood (R24, R51). -/

namespace Sys2Proof.Machine

/-- The lock guard's test: either lock bit of the configuration word read is set (R141). -/
def locked (cfg : Word) : Bool := cfgGet .lockState cfg != 0

/-! ### rmw (R140) -/

/-- Step 5: the write of the merged word is outstanding. -/
def rmwWrite (f : CfgField) (a : Word) (s : State) : Result :=
  awaitWrite (s.writeReq Config.regConfig (cfgPut f s.cfgBuf a)) (done 0) s

/-- Steps 2 to 4: the guard, then the validation, then the write is issued. -/
def rmwCheck (f : CfgField) (gated : Bool) (a : Word) (s : State) : Result :=
  if gated && locked s.cfgBuf then raise .registerLocked (s.enter .check)
  else if !enumValid f a then raise .invalidParameter (s.enter .check)
  else rmwWrite f a (s.issue .wr1 (s.writeReq Config.regConfig (cfgPut f s.cfgBuf a)))

/-- Step 1: the read of CONFIG is outstanding. -/
def rmwRead (f : CfgField) (gated : Bool) (a : Word) (s : State) : Result :=
  awaitRead (s.readReq Config.regConfig) (fun w t => rmwCheck f gated a (t.setCfgBuf w)) s

/-- `rmw(f, gated)` (R140) with the operand `a`. -/
def rmw (f : CfgField) (gated : Bool) (a : Word) (s : State) : Result :=
  match s.phase with
  | .idle => rmwRead f gated a (s.issue .rdCfg (s.readReq Config.regConfig))
  | .rdCfg => rmwRead f gated a s
  | .check => rmwCheck f gated a s
  | .wr1 => rmwWrite f a s
  | .rdData | .wr2 | .rdId2 => .fault .phaseOutOfPlace

/-- SET_POWER (R145). -/
def execSetPower (a : Word) (s : State) : Result := rmw .powerMode true a s

/-- SET_HYST (R146). -/
def execSetHyst (a : Word) (s : State) : Result := rmw .hysteresis true a s

/-- SET_LOCK (R147): not gated. -/
def execSetLock (a : Word) (s : State) : Result := rmw .lockState false a s

/-- SET_ALERT_EN (R148). -/
def execSetAlertEn (a : Word) (s : State) : Result := rmw .alertEnable true a s

/-- SET_ALERT_POL (R149). -/
def execSetAlertPol (a : Word) (s : State) : Result := rmw .alertPolarity true a s

/-- SET_ALERT_MODE (R150). -/
def execSetAlertMode (a : Word) (s : State) : Result := rmw .alertMode true a s

/-- SET_ALERT_RESP (R151). -/
def execSetAlertResp (a : Word) (s : State) : Result := rmw .alertResponse true a s

/-! ### CLEAR_INT (R152): no guard, no validation -/

/-- The word CLEAR_INT writes: the word read with bit 5 set (R152). -/
def clearIntWord (cfg : Word) : Word := cfg ||| 0x0020

/-- The write is outstanding. -/
def clearIntWrite (s : State) : Result :=
  awaitWrite (s.writeReq Config.regConfig (clearIntWord s.cfgBuf)) (done 0) s

/-- The read of CONFIG is outstanding. -/
def clearIntRead (s : State) : Result :=
  awaitRead (s.readReq Config.regConfig) (fun w t =>
    clearIntWrite ((t.setCfgBuf w).issue .wr1 (t.writeReq Config.regConfig (clearIntWord w)))) s

/-- CLEAR_INT (R152). -/
def execClearInt (s : State) : Result :=
  match s.phase with
  | .idle => clearIntRead (s.issue .rdCfg (s.readReq Config.regConfig))
  | .rdCfg => clearIntRead s
  | .wr1 => clearIntWrite s
  | .check | .rdData | .wr2 | .rdId2 => .fault .phaseOutOfPlace

/-! ### get(f) (R153) -/

/-- The extract (R153). -/
def getCheck (f : CfgField) (s : State) : Result := done (cfgGet f s.cfgBuf) (s.enter .check)

/-- The read of CONFIG is outstanding. -/
def getRead (f : CfgField) (s : State) : Result :=
  awaitRead (s.readReq Config.regConfig) (fun w t => getCheck f (t.setCfgBuf w)) s

/-- `get(f)` (R153). -/
def getField (f : CfgField) (s : State) : Result :=
  match s.phase with
  | .idle => getRead f (s.issue .rdCfg (s.readReq Config.regConfig))
  | .rdCfg => getRead f s
  | .check => getCheck f s
  | .rdData | .wr1 | .wr2 | .rdId2 => .fault .phaseOutOfPlace

/-- GET_POWER (R154). -/
def execGetPower (s : State) : Result := getField .powerMode s

/-- GET_HYST (R155). -/
def execGetHyst (s : State) : Result := getField .hysteresis s

/-- GET_LOCK (R156). -/
def execGetLock (s : State) : Result := getField .lockState s

/-- GET_ALERT_EN (R157). -/
def execGetAlertEn (s : State) : Result := getField .alertEnable s

/-- GET_ALERT_POL (R158). -/
def execGetAlertPol (s : State) : Result := getField .alertPolarity s

/-- GET_ALERT_MODE (R159). -/
def execGetAlertMode (s : State) : Result := getField .alertMode s

/-- GET_ALERT_RESP (R160). -/
def execGetAlertResp (s : State) : Result := getField .alertResponse s

/-- GET_INT_CLEAR (R161). -/
def execGetIntClear (s : State) : Result := getField .intClear s

end Sys2Proof.Machine
end

