-- ==== Sys2Proof/Machine/DeviceOps.lean ====
section
/-! DEFINITION. INIT (R180), GET_TEMP (R181), GET_FLAGS (R182), SET_RESOLUTION (R183), SET_WINDOW (R184), SET_CRIT (R185)
and SET_ADDR (R186), each phase by phase. -/

namespace Sys2Proof.Machine

/-! ### INIT (R180) -/

/-- The compared byte of the device-ID register is the expected one. -/
def devIdMatches (p : Params) (w : Word) : Bool := byteAt p.devIdByteIndex w == p.expectedDeviceId

/-- The compared byte of the manufacturer-ID register is the expected one. -/
def mfrIdMatches (p : Params) (w : Word) : Bool := byteAt p.mfrIdByteIndex w == p.expectedManufacturerId

/-- The read of MANUFACTURER_ID is outstanding. -/
def initRead2 (s : State) : Result :=
  awaitRead (s.readReq Config.regManufacturerId) (fun w t =>
    if mfrIdMatches t.params w then done 1 (t.setRdBuf w) else raise .identityMismatch (t.setRdBuf w)) s

/-- The read of DEVICE_ID is outstanding; the second read is issued only on a match. -/
def initRead1 (s : State) : Result :=
  awaitRead (s.readReq Config.regDeviceId) (fun w t =>
    if devIdMatches t.params w then
      initRead2 ((t.setRdBuf w).issue .rdId2 (t.readReq Config.regManufacturerId))
    else raise .identityMismatch (t.setRdBuf w)) s

/-- INIT (R180). -/
def execInit (s : State) : Result :=
  match s.phase with
  | .idle => initRead1 (s.issue .rdData (s.readReq Config.regDeviceId))
  | .rdData => initRead1 s
  | .rdId2 => initRead2 s
  | .rdCfg | .check | .wr1 | .wr2 => .fault .phaseOutOfPlace

/-! ### GET_TEMP and GET_FLAGS (R181, R182) -/

/-- The read of TEMPERATURE is outstanding; its word goes through `g`. -/
def tempRead (g : Word → Word) (s : State) : Result :=
  awaitRead (s.readReq Config.regTemperature) (fun w t => done (g w) (t.setRdBuf w)) s

/-- Read the temperature register and answer `g` of it. -/
def readTemperature (g : Word → Word) (s : State) : Result :=
  match s.phase with
  | .idle => tempRead g (s.issue .rdData (s.readReq Config.regTemperature))
  | .rdData => tempRead g s
  | .rdCfg | .check | .wr1 | .wr2 | .rdId2 => .fault .phaseOutOfPlace

/-- GET_TEMP (R181). -/
def execGetTemp (s : State) : Result := readTemperature (fun w => (decT w).setWidth 16) s

/-- GET_FLAGS (R182). -/
def execGetFlags (s : State) : Result := readTemperature (fun w => (flagBits w).setWidth 16) s

/-! ### SET_RESOLUTION (R183) -/

/-- The one-byte write is outstanding. -/
def resWrite (a : Word) (s : State) : Result :=
  awaitWrite (s.writeByteReq Config.regResolution a) (done 0) s

/-- The validation, then the write is issued. -/
def resCheck (a : Word) (s : State) : Result :=
  if resValid a then resWrite a (s.issue .wr1 (s.writeByteReq Config.regResolution a))
  else raise .invalidParameter (s.enter .check)

/-- SET_RESOLUTION (R183). -/
def execSetResolution (a : Word) (s : State) : Result :=
  match s.phase with
  | .idle => resCheck a s
  | .check => resCheck a s
  | .wr1 => resWrite a s
  | .rdCfg | .rdData | .wr2 | .rdId2 => .fault .phaseOutOfPlace

/-! ### SET_WINDOW (R184) -/

/-- The gap test of R184: signed hundredths, on the operands as given. -/
def gapOk (u l : Word) : Bool := decide (Config.minGap ≤ topVal u - topVal l)

/-- The write of T_LOWER is outstanding. -/
def windowWrite2 (l : Word) (s : State) : Result :=
  awaitWrite (s.writeReq Config.regTLower (encTop l)) (done 0) s

/-- The write of T_UPPER is outstanding; T_LOWER follows its acknowledgement. -/
def windowWrite1 (u l : Word) (s : State) : Result :=
  awaitWrite (s.writeReq Config.regTUpper (encTop u)) (fun t =>
    windowWrite2 l (t.issue .wr2 (t.writeReq Config.regTLower (encTop l)))) s

/-- The guard, the validation of both operands, the gap test, then the first write is issued. -/
def windowCheck (u l : Word) (s : State) : Result :=
  if locked s.cfgBuf then raise .registerLocked (s.enter .check)
  else if !(topValid u && topValid l) then raise .invalidParameter (s.enter .check)
  else if !gapOk u l then raise .thresholdRangeError (s.enter .check)
  else windowWrite1 u l (s.issue .wr1 (s.writeReq Config.regTUpper (encTop u)))

/-- The read of CONFIG is outstanding. -/
def windowRead (u l : Word) (s : State) : Result :=
  awaitRead (s.readReq Config.regConfig) (fun w t => windowCheck u l (t.setCfgBuf w)) s

/-- SET_WINDOW (R184). -/
def execSetWindow (u l : Word) (s : State) : Result :=
  match s.phase with
  | .idle => windowRead u l (s.issue .rdCfg (s.readReq Config.regConfig))
  | .rdCfg => windowRead u l s
  | .check => windowCheck u l s
  | .wr1 => windowWrite1 u l s
  | .wr2 => windowWrite2 l s
  | .rdData | .rdId2 => .fault .phaseOutOfPlace

/-! ### SET_CRIT (R185) -/

/-- The write of T_CRIT is outstanding. -/
def critWrite (a : Word) (s : State) : Result :=
  awaitWrite (s.writeReq Config.regTCrit (encTop a)) (done 0) s

/-- The guard, the validation, then the write is issued. -/
def critCheck (a : Word) (s : State) : Result :=
  if locked s.cfgBuf then raise .registerLocked (s.enter .check)
  else if !topValid a then raise .invalidParameter (s.enter .check)
  else critWrite a (s.issue .wr1 (s.writeReq Config.regTCrit (encTop a)))

/-- The read of CONFIG is outstanding. -/
def critRead (a : Word) (s : State) : Result :=
  awaitRead (s.readReq Config.regConfig) (fun w t => critCheck a (t.setCfgBuf w)) s

/-- SET_CRIT (R185). -/
def execSetCrit (a : Word) (s : State) : Result :=
  match s.phase with
  | .idle => critRead a (s.issue .rdCfg (s.readReq Config.regConfig))
  | .rdCfg => critRead a s
  | .check => critCheck a s
  | .wr1 => critWrite a s
  | .rdData | .wr2 | .rdId2 => .fault .phaseOutOfPlace

/-! ### SET_ADDR (R186) -/

/-- SET_ADDR (R186). -/
def execSetAddr (a : Word) (s : State) : Result :=
  checkOnly (fun t =>
    if addrValid a then done 0 (t.setDevAddr (a.setWidth 7)) else raise .invalidParameter t) s

end Sys2Proof.Machine
end

