-- ==== Sys2Proof/Machine/Dispatch.lean ====
section
/-! DEFINITION. The dispatch: one arm per command of R84, each one direct call of its meaning. -/

namespace Sys2Proof.Machine

def exec (i : Instr) (s : State) : Host.Outcome State Fault Refusal :=
  match i with
  | .decTemp a => Sys2Proof.Machine.execDecTemp a s
  | .encThr a => Sys2Proof.Machine.execEncThr a s
  | .decFlags a => Sys2Proof.Machine.execDecFlags a s
  | .cfgGet a b => Sys2Proof.Machine.execCfgGet a b s
  | .cfgPut a b => Sys2Proof.Machine.execCfgPut a b s
  | .init => Sys2Proof.Machine.execInit s
  | .getTemp => Sys2Proof.Machine.execGetTemp s
  | .getFlags => Sys2Proof.Machine.execGetFlags s
  | .setResolution a => Sys2Proof.Machine.execSetResolution a s
  | .setWindow a b => Sys2Proof.Machine.execSetWindow a b s
  | .setCrit a => Sys2Proof.Machine.execSetCrit a s
  | .clearInt => Sys2Proof.Machine.execClearInt s
  | .setAddr a => Sys2Proof.Machine.execSetAddr a s
  | .setPower a => Sys2Proof.Machine.execSetPower a s
  | .setHyst a => Sys2Proof.Machine.execSetHyst a s
  | .setLock a => Sys2Proof.Machine.execSetLock a s
  | .setAlertEn a => Sys2Proof.Machine.execSetAlertEn a s
  | .setAlertPol a => Sys2Proof.Machine.execSetAlertPol a s
  | .setAlertMode a => Sys2Proof.Machine.execSetAlertMode a s
  | .setAlertResp a => Sys2Proof.Machine.execSetAlertResp a s
  | .getPower => Sys2Proof.Machine.execGetPower s
  | .getHyst => Sys2Proof.Machine.execGetHyst s
  | .getLock => Sys2Proof.Machine.execGetLock s
  | .getAlertEn => Sys2Proof.Machine.execGetAlertEn s
  | .getAlertPol => Sys2Proof.Machine.execGetAlertPol s
  | .getAlertMode => Sys2Proof.Machine.execGetAlertMode s
  | .getAlertResp => Sys2Proof.Machine.execGetAlertResp s
  | .getIntClear => Sys2Proof.Machine.execGetIntClear s

end Sys2Proof.Machine
end

