-- ==== Sys2Proof/Machine/Step.lean ====
section
/-! DEFINITION. One step of the machine: what the host does, then the operation in OPC, OPA and OPB as far as the bus
collaborator answers (R20, R24). -/

namespace Sys2Proof.Machine

/-- Run the accepted command from the phase it stands in; a reserved opcode ends at once with IllegalCommand (R85,
R216). -/
def runOperation (s : State) : Host.Outcome State Fault Refusal :=
  match decodeFields s.opc s.opa s.opb with
  | .ok i => exec i s
  | .error _ => raise .illegalCommand s

/-- One step. The host's next input is taken: a reset acts whatever the phase (R240); a command is accepted if PHASE is
IDLE and has no effect otherwise (R80). An operation accepted or in progress then runs until it ends or waits. With no
command and PHASE IDLE nothing happens. -/
def step (s : State) : Host.Outcome State Fault Refusal :=
  match s.hostIn with
  | .reset :: l => .next (s.setHostIn l).blockReset
  | .command w :: l => runOperation ((s.setHostIn l).accept w)
  | [] => if s.phase = .idle then .next s else runOperation s

/-- The host presents an opcode-table word, and PHASE is IDLE so that the next step accepts it (log 4). -/
def State.withFetchWord (s : State) (nbits w : Nat) : State :=
  s.presentFirst (BitVec.ofNat 40 (w % 2 ^ nbits))

end Sys2Proof.Machine
end

