-- ==== Sys2Proof/Machine/Asm.lean ====
section
/-! DEFINITION. The assembler of R88: the text of a line, its operands in the forms (a) to (d), and the word it stands
for as ten hexadecimal digits. There are no pseudo-instructions (R89). -/

namespace Sys2Proof.Machine

/-- The code of a lock state (R28). -/
def lockCode : LockState → Word
  | .unlocked => 0
  | .windowLocked => 1
  | .critLocked => 2
  | .critWindowLocked => 3

/-- One written operand (R88). -/
inductive AsmOperand where
  /-- (a) a number -/
  | num (n : Nat)
  /-- (b) a signed decimal literal: its sign is minus, its integer digits, its two fraction digits -/
  | temp (minus : Bool) (int frac : Nat)
  /-- (c) the name of a lock state -/
  | lock (l : LockState)
  /-- (d) the name of a field -/
  | field (f : CfgField)
  /-- (d) `field=value` -/
  | assign (f : CfgField) (v : Nat)
deriving DecidableEq, Repr

/-- (a): any operand may be written as a number; one that does not fit 16 bits is refused (DESIGN CHOICE, log 12). -/
def asmNum : AsmOperand → Option Word
  | .num n => if n < 65536 then some (BitVec.ofNat 16 n) else none
  | .temp _ _ _ | .lock _ | .field _ | .assign _ _ => none

/-- A TOP16 operand: a number or a signed decimal literal with an integer part of 0 to 255. -/
def asmTop : AsmOperand → Option Word
  | .temp minus int frac =>
    if int ≤ 255 ∧ frac ≤ 99 then some (BitVec.ofBool minus ++ BitVec.ofNat 8 int ++ BitVec.ofNat 7 frac) else none
  | .num n => asmNum (.num n)
  | .lock _ | .field _ | .assign _ _ => none

/-- The operand of SET_LOCK: a number or a lock state's name. -/
def asmLock : AsmOperand → Option Word
  | .lock l => some (lockCode l)
  | .num n => asmNum (.num n)
  | .temp _ _ _ | .field _ | .assign _ _ => none

/-- The field operand of CFG_GET: its id or its name. -/
def asmField : AsmOperand → Option Word
  | .field f => some (BitVec.ofNat 16 (idOfField f))
  | .num n => asmNum (.num n)
  | .temp _ _ _ | .lock _ | .assign _ _ => none

/-- The second operand of CFG_PUT: a number or `field=value`. -/
def asmAssign : AsmOperand → Option Word
  | .assign f v => if v < 256 then some (BitVec.ofNat 8 (idOfField f) ++ BitVec.ofNat 8 v) else none
  | .num n => asmNum (.num n)
  | .temp _ _ _ | .lock _ | .field _ => none

/-- The command of a mnemonic and its operands, none where it has no such form. -/
def assemble (mnemonic : String) (ops : List AsmOperand) : Option Instr :=
  match mnemonic, ops with
  | "DEC_TEMP", [a] => (asmNum a).map .decTemp
  | "ENC_THR", [a] => (asmTop a).map .encThr
  | "DEC_FLAGS", [a] => (asmNum a).map .decFlags
  | "CFG_GET", [a, b] => (asmNum a).bind fun x => (asmField b).map (.cfgGet x)
  | "CFG_PUT", [a, b] => (asmNum a).bind fun x => (asmAssign b).map (.cfgPut x)
  | "INIT", [] => some .init
  | "GET_TEMP", [] => some .getTemp
  | "GET_FLAGS", [] => some .getFlags
  | "SET_RESOLUTION", [a] => (asmNum a).map .setResolution
  | "SET_WINDOW", [a, b] => (asmTop a).bind fun x => (asmTop b).map (.setWindow x)
  | "SET_CRIT", [a] => (asmTop a).map .setCrit
  | "CLEAR_INT", [] => some .clearInt
  | "SET_ADDR", [a] => (asmNum a).map .setAddr
  | "SET_POWER", [a] => (asmNum a).map .setPower
  | "SET_HYST", [a] => (asmNum a).map .setHyst
  | "SET_LOCK", [a] => (asmLock a).map .setLock
  | "SET_ALERT_EN", [a] => (asmNum a).map .setAlertEn
  | "SET_ALERT_POL", [a] => (asmNum a).map .setAlertPol
  | "SET_ALERT_MODE", [a] => (asmNum a).map .setAlertMode
  | "SET_ALERT_RESP", [a] => (asmNum a).map .setAlertResp
  | "GET_POWER", [] => some .getPower
  | "GET_HYST", [] => some .getHyst
  | "GET_LOCK", [] => some .getLock
  | "GET_ALERT_EN", [] => some .getAlertEn
  | "GET_ALERT_POL", [] => some .getAlertPol
  | "GET_ALERT_MODE", [] => some .getAlertMode
  | "GET_ALERT_RESP", [] => some .getAlertResp
  | "GET_INT_CLEAR", [] => some .getIntClear
  | _, _ => none

/-! ### The text of a line -/

/-- The pieces of a text between the places where a character stands. -/
def splitAtChar (c : Char) : List Char → List (List Char)
  | [] => [[]]
  | x :: xs =>
    if x = c then [] :: splitAtChar c xs
    else match splitAtChar c xs with
      | [] => [[x]]
      | w :: ws => (x :: w) :: ws

/-- A text without the spaces around it: where R88 is silent on spaces, they mean nothing (DESIGN CHOICE, log 12). -/
def trimSpaces (l : List Char) : List Char := ((l.dropWhile (· = ' ')).reverse.dropWhile (· = ' ')).reverse

/-- The value of a digit, decimal or hexadecimal, its letters in either case (DESIGN CHOICE, log 12). -/
def digitValue (c : Char) : Option Nat :=
  if '0' ≤ c ∧ c ≤ '9' then some (c.toNat - 48)
  else if 'a' ≤ c ∧ c ≤ 'f' then some (c.toNat - 87)
  else if 'A' ≤ c ∧ c ≤ 'F' then some (c.toNat - 55)
  else none

/-- The number that digits of a base write after the number `n`. -/
def digitsValue (base : Nat) : Nat → List Char → Option Nat
  | n, [] => some n
  | n, c :: cs =>
    match digitValue c with
    | some d => if d < base then digitsValue base (n * base + d) cs else none
    | none => none

/-- A number, decimal or `0x` hexadecimal. -/
def textNum : List Char → Option Nat
  | [] => none
  | '0' :: 'x' :: [] => none
  | '0' :: 'x' :: c :: cs => digitsValue 16 0 (c :: cs)
  | c :: cs => digitsValue 10 0 (c :: cs)

/-- The digits of a decimal literal: one to three, a point, exactly two. -/
def textTemp (minus : Bool) (l : List Char) : Option AsmOperand :=
  match splitAtChar '.' l with
  | [int, frac] =>
    if 1 ≤ int.length ∧ int.length ≤ 3 ∧ frac.length = 2 then
      (digitsValue 10 0 int).bind fun i => (digitsValue 10 0 frac).map fun f => .temp minus i f
    else none
  | _ => none

/-- The name of a lock state (R88). -/
def textLock : String → Option LockState
  | "UNLOCKED" => some .unlocked
  | "WINDOW_LOCKED" => some .windowLocked
  | "CRIT_LOCKED" => some .critLocked
  | "CRIT_WINDOW_LOCKED" => some .critWindowLocked
  | _ => none

/-- The name of a field (R27). -/
def textField : String → Option CfgField
  | "POWER_MODE" => some .powerMode
  | "HYSTERESIS" => some .hysteresis
  | "LOCK_STATE" => some .lockState
  | "ALERT_ENABLE" => some .alertEnable
  | "ALERT_POLARITY" => some .alertPolarity
  | "ALERT_MODE" => some .alertMode
  | "ALERT_RESPONSE" => some .alertResponse
  | "INT_CLEAR" => some .intClear
  | _ => none

/-- An operand that is a name. -/
def textName (n : String) : Option AsmOperand :=
  match textLock n with
  | some l => some (.lock l)
  | none => (textField n).map .field

/-- `field=value` (R88 d), the field as its name or its id (the id: DESIGN CHOICE, log 12). -/
def textAssign (f v : List Char) : Option AsmOperand :=
  (match textNum f with
    | some id => fieldOfId id
    | none => textField (String.ofList f)).bind fun x => (textNum v).map fun n => .assign x n

/-- An operand as it is written (R88). Spaces may stand around the `=` of `field=value`: R88 writes `HYSTERESIS=3` and is
silent on them (DESIGN CHOICE, log 12). -/
def textOperand (l : List Char) : Option AsmOperand :=
  match l with
  | '+' :: r => textTemp false r
  | '-' :: r => textTemp true r
  | _ =>
    match splitAtChar '=' l with
    | [f, v] => textAssign (trimSpaces f) (trimSpaces v)
    | _ =>
      match textNum l with
      | some n => some (.num n)
      | none => textName (String.ofList l)

/-- Every operand of a list. -/
def textOperands : List (List Char) → Option (List AsmOperand)
  | [] => some []
  | p :: ps => (textOperand (trimSpaces p)).bind fun x => (textOperands ps).map (x :: ·)

/-- The command of a line: its mnemonic and, after a space, its operands separated by commas (R88). Spaces may stand
before and after the line, after the mnemonic, and around each comma (DESIGN CHOICE, log 12). -/
def assembleLine (line : String) : Option Instr :=
  let l := trimSpaces line.toList
  let name := l.takeWhile (· ≠ ' ')
  let rest := trimSpaces (l.dropWhile (· ≠ ' '))
  (textOperands (if rest = [] then [] else splitAtChar ',' rest)).bind fun ops => assemble (String.ofList name) ops

/-- A digit 0 to 15 as a hexadecimal character. -/
def hexChar (n : Nat) : Char := ("0123456789ABCDEF".toList).getD n '0'

/-- A word written as ten hexadecimal digits, the most significant first (R88). -/
def hexWord (w : Cmd) : String := String.ofList ((List.range 10).map fun k => hexChar (w.toNat / 16 ^ (9 - k) % 16))

/-- The encoding of a line (R88). -/
def assembleHex (line : String) : Option String := (assembleLine line).map fun i => hexWord (encode i)

end Sys2Proof.Machine
end

