-- ==== Sys2Proof/Safety.lean ====
section
/-! DEFINITION. What the statements about the machine speak of: the classes of commands (R84, R141), the transactions of each
command (R187), the request outstanding in a phase (R162), and the invariant every step keeps. -/

namespace Sys2Proof

open Sys2Proof.Machine

/-- A field setter: its field, whether it is gated, its operand (R145 to R151). -/
def Instr.setter? : Instr → Option (CfgField × Bool × Word)
  | .setPower a => some (.powerMode, true, a)
  | .setHyst a => some (.hysteresis, true, a)
  | .setLock a => some (.lockState, false, a)
  | .setAlertEn a => some (.alertEnable, true, a)
  | .setAlertPol a => some (.alertPolarity, true, a)
  | .setAlertMode a => some (.alertMode, true, a)
  | .setAlertResp a => some (.alertResponse, true, a)
  | .decTemp _ | .encThr _ | .decFlags _ | .cfgGet _ _ | .cfgPut _ _ | .init | .getTemp | .getFlags
  | .setResolution _ | .setWindow _ _ | .setCrit _ | .clearInt | .setAddr _ | .getPower | .getHyst | .getLock
  | .getAlertEn | .getAlertPol | .getAlertMode | .getAlertResp | .getIntClear => none

/-- A field getter: its field (R154 to R161). -/
def Instr.getter? : Instr → Option CfgField
  | .getPower => some .powerMode
  | .getHyst => some .hysteresis
  | .getLock => some .lockState
  | .getAlertEn => some .alertEnable
  | .getAlertPol => some .alertPolarity
  | .getAlertMode => some .alertMode
  | .getAlertResp => some .alertResponse
  | .getIntClear => some .intClear
  | .decTemp _ | .encThr _ | .decFlags _ | .cfgGet _ _ | .cfgPut _ _ | .init | .getTemp | .getFlags
  | .setResolution _ | .setWindow _ _ | .setCrit _ | .clearInt | .setAddr _ | .setPower _ | .setHyst _ | .setLock _
  | .setAlertEn _ | .setAlertPol _ | .setAlertMode _ | .setAlertResp _ => none

/-- The lock-gated commands (R84, R141). -/
def Instr.gated : Instr → Bool
  | .setPower _ | .setHyst _ | .setAlertEn _ | .setAlertPol _ | .setAlertMode _ | .setAlertResp _
  | .setWindow _ _ | .setCrit _ => true
  | .decTemp _ | .encThr _ | .decFlags _ | .cfgGet _ _ | .cfgPut _ _ | .init | .getTemp | .getFlags
  | .setResolution _ | .clearInt | .setAddr _ | .setLock _ | .getPower | .getHyst | .getLock
  | .getAlertEn | .getAlertPol | .getAlertMode | .getAlertResp | .getIntClear => false

/-- The commands that issue no transaction (R84, R187). -/
def Instr.busFree : Instr → Bool
  | .decTemp _ | .encThr _ | .decFlags _ | .cfgGet _ _ | .cfgPut _ _ | .setAddr _ => true
  | .init | .getTemp | .getFlags | .setResolution _ | .setWindow _ _ | .setCrit _ | .clearInt
  | .setPower _ | .setHyst _ | .setLock _ | .setAlertEn _ | .setAlertPol _ | .setAlertMode _ | .setAlertResp _
  | .getPower | .getHyst | .getLock | .getAlertEn | .getAlertPol | .getAlertMode | .getAlertResp
  | .getIntClear => false

/-- The transactions of `rmw` on the field `f` (R140, R187). -/
def rmwTransactions (A : Addr7) (cfg : Word) (f : CfgField) (a : Word) : List BusRequest :=
  [.read A 0x01 2, .write A 0x01 (bytesOfWord (Machine.cfgPut f cfg a))]

/-- The complete ordered list of transactions of a command at bus address `A` (R187), when the configuration word it
reads is `cfg`. -/
def Instr.transactions (A : Addr7) (cfg : Word) : Instr → List BusRequest
  | .decTemp _ | .encThr _ | .decFlags _ | .cfgGet _ _ | .cfgPut _ _ | .setAddr _ => []
  | .init => [.read A 0x07 2, .read A 0x06 2]
  | .getTemp | .getFlags => [.read A 0x05 2]
  | .setResolution a => [.write A 0x08 [loByte a]]
  | .setWindow u l =>
    [.read A 0x01 2, .write A 0x02 (bytesOfWord (encTop u)), .write A 0x03 (bytesOfWord (encTop l))]
  | .setCrit a => [.read A 0x01 2, .write A 0x04 (bytesOfWord (encTop a))]
  | .clearInt => [.read A 0x01 2, .write A 0x01 (bytesOfWord (cfg ||| 0x0020))]
  | .setPower a => rmwTransactions A cfg .powerMode a
  | .setHyst a => rmwTransactions A cfg .hysteresis a
  | .setLock a => rmwTransactions A cfg .lockState a
  | .setAlertEn a => rmwTransactions A cfg .alertEnable a
  | .setAlertPol a => rmwTransactions A cfg .alertPolarity a
  | .setAlertMode a => rmwTransactions A cfg .alertMode a
  | .setAlertResp a => rmwTransactions A cfg .alertResponse a
  | .getPower | .getHyst | .getLock | .getAlertEn | .getAlertPol | .getAlertMode | .getAlertResp
  | .getIntClear => [.read A 0x01 2]

/-- The addresses of the reference device's bytes a command's writes store to: the two bytes of the register written,
one byte for RESOLUTION (R55, R57). -/
def Instr.storedAt : Instr → List Nat
  | .setResolution _ => [regAddr Config.regResolution]
  | .setWindow _ _ =>
    [regAddr Config.regTUpper, regAddr Config.regTUpper + 1, regAddr Config.regTLower, regAddr Config.regTLower + 1]
  | .setCrit _ => [regAddr Config.regTCrit, regAddr Config.regTCrit + 1]
  | .clearInt | .setPower _ | .setHyst _ | .setLock _ | .setAlertEn _ | .setAlertPol _ | .setAlertMode _
  | .setAlertResp _ => [regAddr Config.regConfig, regAddr Config.regConfig + 1]
  | .decTemp _ | .encThr _ | .decFlags _ | .cfgGet _ _ | .cfgPut _ _ | .setAddr _ | .init | .getTemp | .getFlags
  | .getPower | .getHyst | .getLock | .getAlertEn | .getAlertPol | .getAlertMode | .getAlertResp
  | .getIntClear => []

/-- The phases in which a command waits for the answers to its transactions, in their order (R162 and the rules of the
commands). -/
def Instr.busPhases : Instr → List Phase
  | .decTemp _ | .encThr _ | .decFlags _ | .cfgGet _ _ | .cfgPut _ _ | .setAddr _ => []
  | .init => [.rdData, .rdId2]
  | .getTemp | .getFlags => [.rdData]
  | .setResolution _ => [.wr1]
  | .setWindow _ _ => [.rdCfg, .wr1, .wr2]
  | .setCrit _ | .clearInt | .setPower _ | .setHyst _ | .setLock _ | .setAlertEn _ | .setAlertPol _ | .setAlertMode _
  | .setAlertResp _ => [.rdCfg, .wr1]
  | .getPower | .getHyst | .getLock | .getAlertEn | .getAlertPol | .getAlertMode | .getAlertResp
  | .getIntClear => [.rdCfg]

namespace Machine

/-- The request `req` is outstanding while the command `i` waits in the phase of `s`: phase and request stand at the same
place of the command's lists. -/
def State.Outstanding (i : Instr) (s : State) (req : BusRequest) : Prop :=
  (s.phase, req) ∈ i.busPhases.zip (i.transactions s.devAddr s.cfgBuf)

/-- A phase in which a write is outstanding. -/
def Phase.isWrite : Phase → Bool
  | .wr1 | .wr2 => true
  | .idle | .rdCfg | .check | .rdData | .rdId2 => false

/-- The tests a command must have passed before it writes: the lock guard if it is gated (R141), the validity of its
operands (R142), and for SET_WINDOW the gap (R213). -/
def State.mayWrite (i : Instr) (s : State) : Prop :=
  (i.gated = true → s.cfgBuf.extractLsb' 6 2 = 0) ∧ i.wellFormed = true ∧
  ∀ u l, i = .setWindow u l → 200 ≤ topVal u - topVal l

/-- While an operation waits, the command in OPC, OPA, OPB waits in this phase, its outstanding request is the last
one issued, and a write is outstanding only after the command's tests were passed. -/
def State.waitsProperly (s : State) : Prop :=
  ∃ i req, decodeFields s.opc s.opa s.opb = .ok i ∧ s.Outstanding i req ∧ s.trace.getLast? = some req ∧
    (s.phase.isWrite = true → s.mayWrite i)

/-- The invariant of the machine. -/
structure State.Inv (s : State) : Prop where
  /-- the reference device's memory is canonical -/
  memory : s.devMem.wf = true
  /-- STATUS holds one of the seven codes (R210) -/
  code : s.status.toNat ≤ 6
  /-- PCR is 1 exactly when STATUS is RegisterLocked (R33) -/
  marker : s.pcr = true ↔ s.status = 2
  /-- RES is 0 on every status but OK (R22) -/
  result : s.status ≠ 0 → s.res = 0
  /-- PHASE is IDLE, or an operation waits in it -/
  waiting : s.phase ≠ .idle → s.waitsProperly

/-- The state when an operation ends: the response written, PHASE back to IDLE, the rest as it is (R218, R219). -/
def State.ended (s : State) (code : BitVec 4) (marker : Bool) (v : Word) : State :=
  { s with status := code, pcr := marker, res := v, phase := .idle }

/-- How an operation whose outcome is `o` goes on from the state `s` in which the read `req` has just been issued (R51):
it waits if there is no answer, ends with BusError (code 4) on Error, and satisfies `k` with the two bytes received and
the state after the answer otherwise. Whether and what the collaborator answers is arbitrary (R60); that it stands in
the script is the model's (log 5). -/
def State.AfterRead (s : State) (req : BusRequest) (o : Result) (k : Byte → Byte → State → Prop) : Prop :=
  (s.answer req = none → o = .next (s.served req)) ∧
  (s.answer req = some .error → o = .next ((s.served req).ended 4 false 0)) ∧
  ∀ b0 b1, s.answer req = some (.data [b0, b1]) → k b0 b1 (s.served req)

/-- The same for a write just issued (R52). -/
def State.AfterWrite (s : State) (req : BusRequest) (o : Result) (k : State → Prop) : Prop :=
  (s.answer req = none → o = .next (s.served req)) ∧
  (s.answer req = some .error → o = .next ((s.served req).ended 4 false 0)) ∧
  (s.answer req = some .ack → k (s.served req))

/-- Two states agree on all an operation that starts may depend on (R25, R220): the bus address, the phase, the
parameters and the outside world; the response, the buffers and the command registers may differ. -/
structure State.SameWorld (s s' : State) : Prop where
  devAddr : s.devAddr = s'.devAddr
  phase : s.phase = s'.phase
  params : s.params = s'.params
  script : s.script = s'.script
  refDev : s.refDev = s'.refDev
  devMem : s.devMem = s'.devMem
  trace : s.trace = s'.trace

/-- Nothing but the block writes the device's registers while the script lasts. -/
def State.Undisturbed (s : State) : Prop := ∀ reg v, BusEvent.change reg v ∉ s.script

end Machine

/-- The reserved opcodes of R85. -/
def reservedOpcode (opc : Byte) : Prop :=
  opc.toNat = 0 ∨ (0x06 ≤ opc.toNat ∧ opc.toNat ≤ 0x0F) ∨ (0x18 ≤ opc.toNat ∧ opc.toNat ≤ 0x1F) ∨
  (0x27 ≤ opc.toNat ∧ opc.toNat ≤ 0x2F) ∨ 0x38 ≤ opc.toNat

end Sys2Proof
end

