-- ==== Sys2Proof/Certificates/Slice0/Obligations.lean ====
section
/-! DEFINITION. The statements about the model, for the provers. -/

open Sys2Proof Sys2Proof.Machine

/-! ### Encoding -/

/-- A few command words written out from R80 and R84, one of a reserved opcode. -/
def Obligations.SampleWordsDecode : Prop :=
  decode 0x0101040000 = .ok (.decTemp 0x0104) ∧ decode 0x0294000000 = .ok (.encThr 0x9400) ∧
  decode 0x05F8100202 = .ok (.cfgPut 0xF810 0x0202) ∧ decode 0x1405000480 = .ok (.setWindow 0x0500 0x0480) ∧
  decode 0x1700190000 = .ok (.setAddr 0x0019) ∧ decode 0x2101020000 = .ok (.setHyst 0x0102) ∧
  decode 0x32FFFFFFFF = .ok .getLock ∧ decode 0x2700010000 = .error (.reservedOpcode 0x27)

/-- Decoding the word of any command, with every value of its operands, gives the command back (R80, R84). -/
def Obligations.DecodeOfEncodeIsIdentity : Prop :=
  ∀ i : Instr, decode (encode i) = .ok i

/-- Words with the same opcode and the same used operands decode alike: operand bits a command does not use are ignored
(R86; which operands are used is the table of R84). -/
def Obligations.UnusedOperandBitsAreIgnored : Prop :=
  ∀ w w' : Cmd, opcField w = opcField w' →
    (opcField w ∉ [0x10, 0x11, 0x12, 0x16, 0x30, 0x31, 0x32, 0x33, 0x34, 0x35, 0x36, 0x37] →
      opaField w = opaField w') →
    (opcField w ∈ [0x04, 0x05, 0x14] → opbField w = opbField w') →
    decode w = decode w'

/-- A word decodes to a command exactly when its opcode is not reserved, and a reserved opcode is refused by its name
(R85). -/
def Obligations.DecodeRefusesExactlyReservedOpcodes : Prop :=
  ∀ w : Cmd, ((∃ i, decode w = .ok i) ↔ ¬ reservedOpcode (opcField w)) ∧
    (reservedOpcode (opcField w) → decode w = .error (.reservedOpcode (opcField w)))

/-- A signed decimal literal with an integer part of 0 to 255 and a fraction of 0 to 99 assembles to a valid TOP16 operand
of exactly its value (R88, R9). -/
def Obligations.AssembledLiteralHasItsValue : Prop :=
  ∀ (minus : Bool) (int frac : Nat), int ≤ 255 → frac ≤ 99 →
    ∃ w, asmTop (.temp minus int frac) = some w ∧ topValid w = true ∧
      topVal w = (if minus = true then -1 else 1) * (100 * (int : Int) + frac)

/-! ### Steps, acceptance, reset -/

/-- A step in IDLE that finds a command presented which decodes to `i` is exec of `i` in the state with OPC, OPA and OPB
loaded and the command taken from the host's list (R80; the list is the model's, log 4). A step in IDLE without input
changes nothing, and a step that finds an operation waiting runs the command in OPC, OPA, OPB on. -/
def Obligations.StepRunsTheDecodedCommand : Prop :=
  (∀ (s : State) (w : Cmd) (l : List HostInput) (i : Instr), s.phase = .idle → s.hostIn = .command w :: l →
    decode w = .ok i →
    step s = exec i { s with hostIn := l, opc := opcField w, opa := opaField w, opb := opbField w }) ∧
  (∀ s : State, s.phase = .idle → s.hostIn = [] → step s = .next s) ∧
  (∀ (s : State) (i : Instr), s.phase ≠ .idle → s.hostIn = [] → decodeFields s.opc s.opa s.opb = .ok i →
    step s = exec i s)

/-- A presented command is accepted when PHASE is IDLE, loading the three command registers and nothing else; presented
while PHASE is not IDLE it has no effect, and the operation in progress goes on as without it (R80). -/
def Obligations.CommandIsAcceptedOnlyInIdle : Prop :=
  (∀ (s : State) (w : Cmd), s.phase = .idle →
    s.accept w = { s with opc := w.extractLsb' 32 8, opa := w.extractLsb' 16 16, opb := w.extractLsb' 0 16 }) ∧
  (∀ (s : State) (w : Cmd), s.phase ≠ .idle → s.accept w = s) ∧
  (∀ (s : State) (w : Cmd) (l : List HostInput) (i : Instr), s.phase ≠ .idle → s.hostIn = .command w :: l →
    decodeFields s.opc s.opa s.opb = .ok i → step s = exec i { s with hostIn := l })

/-- A command with a reserved opcode is accepted, issues no transaction and ends at once with IllegalCommand (code 6),
RES 0 and PCR 0; nothing else changes (R85, R216). -/
def Obligations.ReservedOpcodeEndsWithIllegalCommand : Prop :=
  ∀ (s : State) (w : Cmd) (l : List HostInput), s.phase = .idle → s.hostIn = .command w :: l →
    reservedOpcode (opcField w) →
    step s = .next { s with hostIn := l, opc := opcField w, opa := opaField w, opb := opbField w,
                            status := 6, pcr := false, res := 0, phase := .idle }

/-- A reset, whatever the phase, gives the registers their reset values, issues no transaction and does nothing to the
sensor (R240; that a transaction in flight leaves no mark by itself is the model's, log 9). -/
def Obligations.ResetActsInEveryPhase : Prop :=
  ∀ (s : State) (l : List HostInput), s.hostIn = .reset :: l →
    ∃ t, step s = .next t ∧ t.devAddr = 0x18 ∧ t.phase = .idle ∧ t.status = 0 ∧ t.pcr = false ∧ t.res = 0 ∧
      t.trace = s.trace ∧ t.devMem = s.devMem ∧ t.script = s.script ∧ t.refDev = s.refDev ∧ t.params = s.params ∧
      t.hostIn = l

/-- The reset values R35 gives, no transaction issued (R240), and the four open parameters at the defaults of R6: that they
stand at their defaults after reset is the model's choice (log 3). -/
def Obligations.ResetStateHoldsTheStatedValues : Prop :=
  State.reset.devAddr = 0x18 ∧ State.reset.phase = .idle ∧ State.reset.status = 0 ∧ State.reset.pcr = false ∧
  State.reset.res = 0 ∧ State.reset.trace = [] ∧
  State.reset.params = { expectedDeviceId := 0x04, devIdByteIndex := 0,
                         expectedManufacturerId := 0x54, mfrIdByteIndex := 1 }

/-! ### Status and response -/

/-- `raise S` writes the code of S, PCR, RES = 0 and PHASE = IDLE and nothing else; `done(v)` writes 0, 0, v and IDLE
(R218, R219, the codes of R210, the marker of R225). -/
def Obligations.RaiseAndDoneWriteTheResponse : Prop :=
  (∀ s, raise .invalidParameter s = .next { s with status := 1, pcr := false, res := 0, phase := .idle }) ∧
  (∀ s, raise .registerLocked s = .next { s with status := 2, pcr := true, res := 0, phase := .idle }) ∧
  (∀ s, raise .thresholdRangeError s = .next { s with status := 3, pcr := false, res := 0, phase := .idle }) ∧
  (∀ s, raise .busError s = .next { s with status := 4, pcr := false, res := 0, phase := .idle }) ∧
  (∀ s, raise .identityMismatch s = .next { s with status := 5, pcr := false, res := 0, phase := .idle }) ∧
  (∀ s, raise .illegalCommand s = .next { s with status := 6, pcr := false, res := 0, phase := .idle }) ∧
  (∀ v s, done v s = .next { s with status := 0, pcr := false, res := v, phase := .idle })

/-- The response word packs STATUS in bits 20:17, PCR in bit 16 and RES in bits 15:0 (R81), and the host can read it
exactly when PHASE is IDLE (R22, R33). -/
def Obligations.ResponseWordPacksTheTriple : Prop :=
  ∀ s : State, s.rsp.extractLsb' 17 4 = s.status ∧ s.rsp.getLsbD 16 = s.pcr ∧ s.rsp.extractLsb' 0 16 = s.res ∧
    (s.phase = .idle → s.response = some s.rsp) ∧ (s.phase ≠ .idle → s.response = none)

/-! ### The codec's functions -/

/-- The table of `decimalBin` (R111). -/
def Obligations.DecimalBinFollowsItsTable : Prop :=
  ∀ F : BitVec 7, (F.toNat = 0 → decimalBin F = 0) ∧ (1 ≤ F.toNat → F.toNat ≤ 25 → decimalBin F = 4) ∧
    (26 ≤ F.toNat → F.toNat ≤ 49 → decimalBin F = 8) ∧ (50 ≤ F.toNat → decimalBin F = 12)

/-- `decT(W)` is `m` or `4096 - m`, its ranges, and that `W[15:13]` are ignored (R112). -/
def Obligations.DecTIsTheLiteralFormula : Prop :=
  ∀ W : Word,
    (W.getLsbD 12 = true → (decT W).toNat = 4096 - (W.extractLsb' 0 12).toNat) ∧
    (W.getLsbD 12 = false → (decT W).toNat = (W.extractLsb' 0 12).toNat) ∧
    (W.extractLsb' 0 12).toNat = (W.extractLsb' 8 4).toNat * 256 + (W.extractLsb' 0 8).toNat ∧
    (W.getLsbD 12 = false → (decT W).toNat ≤ 4095) ∧
    (W.getLsbD 12 = true → 1 ≤ (decT W).toNat ∧ (decT W).toNat ≤ 4096) ∧
    ∀ V : Word, V.extractLsb' 0 13 = W.extractLsb' 0 13 → decT V = decT W

/-- `encT(s, I, F)` packs its two bytes by the shift formula, its top three bits are 0, and a negative zero encodes to
0x1000 (R114). -/
def Obligations.EncTIsThePackFormula : Prop :=
  (∀ (s : BitVec 1) (I : BitVec 8) (F : BitVec 7),
    (encT s I F).toNat =
      ((s.toNat <<< 4) ||| (I.toNat >>> 4)) * 256 + (((I.toNat &&& 0xF) <<< 4) ||| (decimalBin F).toNat) ∧
    (encT s I F).toNat = (s.toNat <<< 12) ||| (I.toNat <<< 4) ||| (decimalBin F).toNat ∧
    (encT s I F).extractLsb' 13 3 = 0 ∧ (encT s I F).extractLsb' 12 1 = s) ∧
  encT 1 0 0 = 0x1000

/-- The eight fields: ids, masks, shifts and widths, that the masks are pairwise disjoint, and the mask of all fields and
of none (R27). -/
def Obligations.FieldTableIsAsGiven : Prop :=
  (fieldOfId 0 = some .powerMode ∧ fieldMask .powerMode = 0x0100 ∧ fieldShift .powerMode = 8 ∧ fieldWidth .powerMode = 1) ∧
  (fieldOfId 1 = some .hysteresis ∧ fieldMask .hysteresis = 0x0600 ∧ fieldShift .hysteresis = 9 ∧
    fieldWidth .hysteresis = 2) ∧
  (fieldOfId 2 = some .lockState ∧ fieldMask .lockState = 0x00C0 ∧ fieldShift .lockState = 6 ∧
    fieldWidth .lockState = 2) ∧
  (fieldOfId 3 = some .alertEnable ∧ fieldMask .alertEnable = 0x0008 ∧ fieldShift .alertEnable = 3 ∧
    fieldWidth .alertEnable = 1) ∧
  (fieldOfId 4 = some .alertPolarity ∧ fieldMask .alertPolarity = 0x0002 ∧ fieldShift .alertPolarity = 1 ∧
    fieldWidth .alertPolarity = 1) ∧
  (fieldOfId 5 = some .alertMode ∧ fieldMask .alertMode = 0x0001 ∧ fieldShift .alertMode = 0 ∧
    fieldWidth .alertMode = 1) ∧
  (fieldOfId 6 = some .alertResponse ∧ fieldMask .alertResponse = 0x0004 ∧ fieldShift .alertResponse = 2 ∧
    fieldWidth .alertResponse = 1) ∧
  (fieldOfId 7 = some .intClear ∧ fieldMask .intClear = 0x0020 ∧ fieldShift .intClear = 5 ∧ fieldWidth .intClear = 1) ∧
  (∀ n, 8 ≤ n → fieldOfId n = none) ∧
  (∀ f g : CfgField, f ≠ g → fieldMask f &&& fieldMask g = 0) ∧
  (fieldMask .powerMode ||| fieldMask .hysteresis ||| fieldMask .lockState ||| fieldMask .alertEnable |||
    fieldMask .alertPolarity ||| fieldMask .alertMode ||| fieldMask .alertResponse ||| fieldMask .intClear = 0x07EF) ∧
  ~~~ (0x07EF : Word) = 0xF810

/-- The laws of the field functions (R123). -/
def Obligations.FieldFunctionsObeyTheirLaws : Prop :=
  ∀ (f g : CfgField) (W u v : Word), f ≠ g → u.toNat < 2 ^ fieldWidth f → v.toNat < 2 ^ fieldWidth f →
    cfgGet f (cfgPut f W v) = v ∧
    cfgGet g (cfgPut f W v) = cfgGet g W ∧
    cfgPut f W v &&& 0xF810 = W &&& 0xF810 ∧
    cfgPut f W (cfgGet f W) = W ∧
    cfgPut f (cfgPut f W u) v = cfgPut f W v

/-- The merged word differs from the word read only inside the field's mask: every bit outside it goes back as it was read
(R143, R26). -/
def Obligations.MergeKeepsEveryOtherBit : Prop :=
  ∀ (f : CfgField) (W v : Word) (k : Nat), v.toNat < 2 ^ fieldWidth f → (fieldMask f).getLsbD k = false →
    (cfgPut f W v).getLsbD k = W.getLsbD k

/-- Decoding an encoded threshold: the two formulas, how far the recovered magnitude `100*I + 25*bin/4` lies from the
operand's, and when the round trip is exact or within 0.0625 degrees (R121). -/
def Obligations.DecodingAnEncodedThreshold : Prop :=
  ∀ (s : BitVec 1) (I : BitVec 8) (F : BitVec 7), F.toNat ≤ 99 →
    (s = 0 → (decT (encT s I F)).toNat = 16 * I.toNat + (decimalBin F).toNat) ∧
    (s = 1 → (decT (encT s I F)).toNat = 4096 - (16 * I.toNat + (decimalBin F).toNat)) ∧
    ((100 * I.toNat + 25 * (decimalBin F).toNat / 4 : Nat) : Int) - (100 * I.toNat + F.toNat : Nat) =
      (if F.toNat = 0 then 0 else if F.toNat ≤ 25 then 25 - (F.toNat : Int)
        else if F.toNat ≤ 49 then 50 - (F.toNat : Int) else 75 - (F.toNat : Int)) ∧
    (s = 0 → F.toNat = 0 ∨ F.toNat = 25 → 25 * (decT (encT s I F)).toNat = 4 * (100 * I.toNat + F.toNat)) ∧
    (s = 0 → (19 ≤ F.toNat ∧ F.toNat ≤ 25) ∨ (44 ≤ F.toNat ∧ F.toNat ≤ 49) ∨ (69 ≤ F.toNat ∧ F.toNat ≤ 81) →
      25 * (decT (encT s I F)).toNat ≤ 4 * (100 * I.toNat + F.toNat) + 25 ∧
      4 * (100 * I.toNat + F.toNat) ≤ 25 * (decT (encT s I F)).toNat + 25)

/-- The bounds of the gap arithmetic: a valid operand's value and the difference of two (R120, R9). -/
def Obligations.GapArithmeticIsBounded : Prop :=
  ∀ u l : Word, topValid u = true → topValid l = true →
    -25599 ≤ topVal u ∧ topVal u ≤ 25599 ∧ -51198 ≤ topVal u - topVal l ∧ topVal u - topVal l ≤ 51198

/-- For non-negative valid operands a gap of 2.00 degrees survives encoding: the words differ by at least 32 sixteenths
(R184's corner case). -/
def Obligations.EncodedWindowKeepsItsGap : Prop :=
  ∀ u l : Word, topSign u = 0 → topSign l = 0 → topValid u = true → topValid l = true →
    200 ≤ topVal u - topVal l → (encTop l).toNat + 32 ≤ (encTop u).toNat

/-! ### Results of the codec commands -/

/-- DEC_TEMP answers `decT(OPA)` zero-extended, status OK (R113). -/
def Obligations.DecTempResult : Prop :=
  ∀ (a : Word) (s : State), s.phase = .idle →
    exec (.decTemp a) s = .next (s.ended 0 false ((decT a).setWidth 16))

/-- ENC_THR answers `encT` of the slices of OPA, or InvalidParameter when `F > 99` (R115). -/
def Obligations.EncThrResult : Prop :=
  ∀ (a : Word) (s : State), s.phase = .idle →
    ((a.extractLsb' 0 7).toNat ≤ 99 → exec (.encThr a) s =
      .next (s.ended 0 false (encT (a.extractLsb' 15 1) (a.extractLsb' 7 8) (a.extractLsb' 0 7)))) ∧
    (99 < (a.extractLsb' 0 7).toNat → exec (.encThr a) s = .next (s.ended 1 false 0))

/-- DEC_FLAGS answers `OPA[15:13]` (R116). -/
def Obligations.DecFlagsResult : Prop :=
  ∀ (a : Word) (s : State), s.phase = .idle →
    exec (.decFlags a) s = .next (s.ended 0 false ((a.extractLsb' 13 3).setWidth 16))

/-- CFG_GET answers the field named by OPB, or InvalidParameter when OPB is above 7 (R118). -/
def Obligations.CfgGetResult : Prop :=
  ∀ (a b : Word) (s : State), s.phase = .idle →
    (∀ f, idOfField f = b.toNat → exec (.cfgGet a b) s = .next (s.ended 0 false (cfgGet f a))) ∧
    (7 < b.toNat → exec (.cfgGet a b) s = .next (s.ended 1 false 0))

/-- CFG_PUT answers the merged word, or InvalidParameter when there is no such field or the value does not fit it
(R119). -/
def Obligations.CfgPutResult : Prop :=
  ∀ (a b : Word) (s : State), s.phase = .idle →
    (∀ f, idOfField f = (b.extractLsb' 8 8).toNat → (b.extractLsb' 0 8).toNat < 2 ^ fieldWidth f →
      exec (.cfgPut a b) s = .next (s.ended 0 false (cfgPut f a ((b.extractLsb' 0 8).setWidth 16)))) ∧
    (∀ f, idOfField f = (b.extractLsb' 8 8).toNat → 2 ^ fieldWidth f ≤ (b.extractLsb' 0 8).toNat →
      exec (.cfgPut a b) s = .next (s.ended 1 false 0)) ∧
    (7 < (b.extractLsb' 8 8).toNat → exec (.cfgPut a b) s = .next (s.ended 1 false 0))

/-! ### The sequences -/

/-- The seven field setters SET_POWER, SET_HYST, SET_LOCK, SET_ALERT_EN, SET_ALERT_POL, SET_ALERT_MODE, SET_ALERT_RESP,
started in IDLE: read CONFIG, guard (all but SET_LOCK), validate, write the merged word, answer OK (R140, R145 to R151). -/
def Obligations.FieldSettersReadGuardValidateWrite : Prop :=
  ∀ (i : Instr) (f : CfgField) (gated : Bool) (a : Word) (s : State),
    i.setter? = some (f, gated, a) → s.phase = .idle →
    let rd := BusRequest.read s.devAddr 0x01 2
    (s.issue .rdCfg rd).AfterRead rd (exec i s) fun b0 b1 t =>
      let cfg : Word := b0 ++ b1
      let u := { t with cfgBuf := cfg }
      let new := cfgPut f cfg a
      let wr := BusRequest.write s.devAddr 0x01 [new.extractLsb' 8 8, new.extractLsb' 0 8]
      (gated = true → cfg.extractLsb' 6 2 ≠ 0 → exec i s = .next (u.ended 2 true 0)) ∧
      ((gated = true → cfg.extractLsb' 6 2 = 0) → 2 ^ fieldWidth f ≤ a.toNat → exec i s = .next (u.ended 1 false 0)) ∧
      ((gated = true → cfg.extractLsb' 6 2 = 0) → a.toNat < 2 ^ fieldWidth f →
        (u.issue .wr1 wr).AfterWrite wr (exec i s) fun v => exec i s = .next (v.ended 0 false 0))

/-- CLEAR_INT started in IDLE: read CONFIG, write it back with bit 5 set, whatever was read (R152). -/
def Obligations.ClearIntReadsAndWritesBack : Prop :=
  ∀ s : State, s.phase = .idle →
    let rd := BusRequest.read s.devAddr 0x01 2
    (s.issue .rdCfg rd).AfterRead rd (exec .clearInt s) fun b0 b1 t =>
      let cfg : Word := b0 ++ b1
      let new := cfg ||| 0x0020
      let wr := BusRequest.write s.devAddr 0x01 [new.extractLsb' 8 8, new.extractLsb' 0 8]
      (State.issue .wr1 wr { t with cfgBuf := cfg }).AfterWrite wr (exec .clearInt s) fun v =>
        exec .clearInt s = .next (v.ended 0 false 0)

/-- The eight field getters GET_POWER, GET_HYST, GET_LOCK, GET_ALERT_EN, GET_ALERT_POL, GET_ALERT_MODE, GET_ALERT_RESP,
GET_INT_CLEAR, started in IDLE: read CONFIG, answer the field (R153 to R161). -/
def Obligations.FieldGettersReadAndExtract : Prop :=
  ∀ (i : Instr) (f : CfgField) (s : State), i.getter? = some f → s.phase = .idle →
    let rd := BusRequest.read s.devAddr 0x01 2
    (s.issue .rdCfg rd).AfterRead rd (exec i s) fun b0 b1 t =>
      exec i s = .next (State.ended { t with cfgBuf := b0 ++ b1 } 0 false (cfgGet f (b0 ++ b1)))

/-- INIT started in IDLE: read DEVICE_ID and compare, then read MANUFACTURER_ID and compare; the second read only after a
match (R180). -/
def Obligations.InitComparesBothIdentities : Prop :=
  ∀ s : State, s.phase = .idle →
    let rd1 := BusRequest.read s.devAddr 0x07 2
    let rd2 := BusRequest.read s.devAddr 0x06 2
    (s.issue .rdData rd1).AfterRead rd1 (exec .init s) fun d0 d1 t =>
      let u := { t with rdBuf := d0 ++ d1 }
      let d := if s.params.devIdByteIndex = 0 then d0 else d1
      (d ≠ s.params.expectedDeviceId → exec .init s = .next (u.ended 5 false 0)) ∧
      (d = s.params.expectedDeviceId →
        (u.issue .rdId2 rd2).AfterRead rd2 (exec .init s) fun m0 m1 v =>
          let x := { v with rdBuf := m0 ++ m1 }
          let m := if s.params.mfrIdByteIndex = 0 then m0 else m1
          (m ≠ s.params.expectedManufacturerId → exec .init s = .next (x.ended 5 false 0)) ∧
          (m = s.params.expectedManufacturerId → exec .init s = .next (x.ended 0 false 1)))

/-- GET_TEMP started in IDLE: read TEMPERATURE, answer `decT` of it (R181). -/
def Obligations.GetTempReadsAndDecodes : Prop :=
  ∀ s : State, s.phase = .idle →
    let rd := BusRequest.read s.devAddr 0x05 2
    (s.issue .rdData rd).AfterRead rd (exec .getTemp s) fun b0 b1 t =>
      exec .getTemp s = .next (State.ended { t with rdBuf := b0 ++ b1 } 0 false ((decT (b0 ++ b1)).setWidth 16))

/-- GET_FLAGS started in IDLE: read TEMPERATURE, answer bits 7:5 of the first byte (R182). -/
def Obligations.GetFlagsReadsTheTopBits : Prop :=
  ∀ s : State, s.phase = .idle →
    let rd := BusRequest.read s.devAddr 0x05 2
    (s.issue .rdData rd).AfterRead rd (exec .getFlags s) fun b0 b1 t =>
      exec .getFlags s = .next (State.ended { t with rdBuf := b0 ++ b1 } 0 false ((b0.extractLsb' 5 3).setWidth 16))

/-- SET_RESOLUTION started in IDLE: validate, then one one-byte write of the code; no read, no guard (R183). -/
def Obligations.SetResolutionWritesOneByte : Prop :=
  ∀ (a : Word) (s : State), s.phase = .idle →
    (3 < a.toNat → exec (.setResolution a) s = .next (s.ended 1 false 0)) ∧
    (a.toNat ≤ 3 →
      let wr := BusRequest.write s.devAddr 0x08 [a.extractLsb' 0 8]
      (s.issue .wr1 wr).AfterWrite wr (exec (.setResolution a) s) fun t =>
        exec (.setResolution a) s = .next (t.ended 0 false 0))

/-- SET_WINDOW started in IDLE: read CONFIG, guard, validate both operands, test the gap, write T_UPPER, then T_LOWER
(R184). -/
def Obligations.SetWindowTestsThenWritesBoth : Prop :=
  ∀ (hi lo : Word) (s : State), s.phase = .idle →
    let rd := BusRequest.read s.devAddr 0x01 2
    (s.issue .rdCfg rd).AfterRead rd (exec (.setWindow hi lo) s) fun b0 b1 t =>
      let cfg : Word := b0 ++ b1
      let u := { t with cfgBuf := cfg }
      let up := encT (hi.extractLsb' 15 1) (hi.extractLsb' 7 8) (hi.extractLsb' 0 7)
      let dn := encT (lo.extractLsb' 15 1) (lo.extractLsb' 7 8) (lo.extractLsb' 0 7)
      let wr1 := BusRequest.write s.devAddr 0x02 [up.extractLsb' 8 8, up.extractLsb' 0 8]
      let wr2 := BusRequest.write s.devAddr 0x03 [dn.extractLsb' 8 8, dn.extractLsb' 0 8]
      (cfg.extractLsb' 6 2 ≠ 0 → exec (.setWindow hi lo) s = .next (u.ended 2 true 0)) ∧
      (cfg.extractLsb' 6 2 = 0 → (99 < (hi.extractLsb' 0 7).toNat ∨ 99 < (lo.extractLsb' 0 7).toNat) →
        exec (.setWindow hi lo) s = .next (u.ended 1 false 0)) ∧
      (cfg.extractLsb' 6 2 = 0 → (hi.extractLsb' 0 7).toNat ≤ 99 → (lo.extractLsb' 0 7).toNat ≤ 99 →
        topVal hi - topVal lo < 200 → exec (.setWindow hi lo) s = .next (u.ended 3 false 0)) ∧
      (cfg.extractLsb' 6 2 = 0 → (hi.extractLsb' 0 7).toNat ≤ 99 → (lo.extractLsb' 0 7).toNat ≤ 99 →
        200 ≤ topVal hi - topVal lo →
        (u.issue .wr1 wr1).AfterWrite wr1 (exec (.setWindow hi lo) s) fun v =>
          (v.issue .wr2 wr2).AfterWrite wr2 (exec (.setWindow hi lo) s) fun x =>
            exec (.setWindow hi lo) s = .next (x.ended 0 false 0))

/-- SET_CRIT started in IDLE: read CONFIG, guard, validate, write T_CRIT (R185). -/
def Obligations.SetCritTestsThenWrites : Prop :=
  ∀ (a : Word) (s : State), s.phase = .idle →
    let rd := BusRequest.read s.devAddr 0x01 2
    (s.issue .rdCfg rd).AfterRead rd (exec (.setCrit a) s) fun b0 b1 t =>
      let cfg : Word := b0 ++ b1
      let u := { t with cfgBuf := cfg }
      let w := encT (a.extractLsb' 15 1) (a.extractLsb' 7 8) (a.extractLsb' 0 7)
      let wr := BusRequest.write s.devAddr 0x04 [w.extractLsb' 8 8, w.extractLsb' 0 8]
      (cfg.extractLsb' 6 2 ≠ 0 → exec (.setCrit a) s = .next (u.ended 2 true 0)) ∧
      (cfg.extractLsb' 6 2 = 0 → 99 < (a.extractLsb' 0 7).toNat → exec (.setCrit a) s = .next (u.ended 1 false 0)) ∧
      (cfg.extractLsb' 6 2 = 0 → (a.extractLsb' 0 7).toNat ≤ 99 →
        (u.issue .wr1 wr).AfterWrite wr (exec (.setCrit a) s) fun v =>
          exec (.setCrit a) s = .next (v.ended 0 false 0))

/-- SET_ADDR writes DEV_ADDR, or ends with InvalidParameter when OPA is above 0x7F; no transaction (R186). -/
def Obligations.SetAddrWritesTheBusAddress : Prop :=
  ∀ (a : Word) (s : State), s.phase = .idle →
    (a.toNat ≤ 0x7F →
      exec (.setAddr a) s = .next (State.ended { s with devAddr := a.extractLsb' 0 7 } 0 false 0)) ∧
    (0x7F < a.toNat → exec (.setAddr a) s = .next (s.ended 1 false 0))

/-! ### The lock guard and the abort -/

/-- The eight gated commands SET_POWER, SET_HYST, SET_ALERT_EN, SET_ALERT_POL, SET_ALERT_MODE, SET_ALERT_RESP, SET_WINDOW,
SET_CRIT, whatever their operands, end with RegisterLocked and PCR 1 after exactly one transaction, the read of CONFIG,
when the word read has a lock bit set (R212, R141). -/
def Obligations.GatedCommandsStopAtTheLock : Prop :=
  ∀ (i : Instr) (s : State) (b0 b1 : Byte), i.gated = true → s.phase = .idle →
    (s.issue .rdCfg (.read s.devAddr 0x01 2)).answer (.read s.devAddr 0x01 2) = some (.data [b0, b1]) →
    (b0 ++ b1 : Word).extractLsb' 6 2 ≠ 0 →
    ∃ t, exec i s = .next t ∧ t.status = 2 ∧ t.pcr = true ∧ t.res = 0 ∧ t.phase = .idle ∧
      t.trace = s.trace ++ [.read s.devAddr 0x01 2]

/-- No other command ends with RegisterLocked (R141, R223). -/
def Obligations.UngatedCommandsNeverReportTheLock : Prop :=
  ∀ (i : Instr) (s t : State), i.gated = false → exec i s = .next t → t.phase = .idle → t.status ≠ 2

/-- What each status but RegisterLocked tells of the command that ended with it: InvalidParameter, that an operand is not valid (R211);
ThresholdRangeError, that it is SET_WINDOW with a gap below 2.00 degrees (R213); BusError, that it uses the bus (R214);
IdentityMismatch, that it is INIT (R215); no decoded command ends with IllegalCommand or a higher code (R216, R210). -/
def Obligations.StatusesHaveTheirCauses : Prop :=
  ∀ (i : Instr) (s t : State), exec i s = .next t → t.phase = .idle →
    t.status.toNat ≤ 5 ∧ (t.status = 1 → i.wellFormed = false) ∧
    (t.status = 3 → ∃ u l, i = .setWindow u l ∧ topVal u - topVal l < 200) ∧
    (t.status = 4 → i.busFree = false) ∧ (t.status = 5 → i = .init)

/-- PCR is 1 after an operation that ended with RegisterLocked and 0 after every other, reserved opcodes among them,
whatever PCR was before (R225). -/
def Obligations.MarkerSaysRegisterLocked : Prop :=
  ∀ s t : State, runOperation s = .next t → t.phase = .idle → (t.pcr = true ↔ t.status = 2)

/-- An operation that ends with a status other than OK and BusError has issued no write (R218, R142). -/
def Obligations.AbortsBeforeAnyWrite : Prop :=
  ∀ (i : Instr) (s t : State), s.phase = .idle → exec i s = .next t → t.phase = .idle → t.status ≠ 0 → t.status ≠ 4 →
    ∃ rs, t.trace = s.trace ++ rs ∧ ∀ r ∈ rs, ∃ reg, r = .read s.devAddr reg 2

/-! ### The transactions -/

/-- What a command started in IDLE issues is a beginning of its list of R187, the whole list when it ends with OK. -/
def Obligations.TransactionsFollowTheList : Prop :=
  ∀ (i : Instr) (s t : State), s.phase = .idle → exec i s = .next t →
    ∃ rs, t.trace = s.trace ++ rs ∧ rs <+: i.transactions s.devAddr t.cfgBuf ∧
      (t.phase = .idle → t.status = 0 → rs = i.transactions s.devAddr t.cfgBuf)

/-- A command issues at most three transactions (R250), each at the address in DEV_ADDR (R23), to a pointer of the map
(R57), reads of two bytes, writes of two bytes but one byte to RESOLUTION (R55). -/
def Obligations.TransactionsAreFewAndWellFormed : Prop :=
  ∀ (i : Instr) (s t : State), s.phase = .idle → exec i s = .next t →
    ∃ rs, t.trace = s.trace ++ rs ∧ rs.length ≤ 3 ∧
      ∀ r ∈ rs, (∃ reg ∈ [0x01, 0x05, 0x06, 0x07], r = .read s.devAddr reg 2) ∨
        (∃ reg ∈ [0x01, 0x02, 0x03, 0x04], ∃ x y, r = .write s.devAddr reg [x, y]) ∨
        ∃ x, r = .write s.devAddr 0x08 [x]

/-! ### Frames -/

/-- What no command changes: the command registers, the parameters, the host's list, where the reference device stands;
the bus address, but for SET_ADDR; the transactions issued before (R21, R23, R20). -/
def Obligations.CommandsKeepTheirFrame : Prop :=
  ∀ (i : Instr) (s t : State), exec i s = .next t →
    t.opc = s.opc ∧ t.opa = s.opa ∧ t.opb = s.opb ∧ t.params = s.params ∧ t.hostIn = s.hostIn ∧ t.refDev = s.refDev ∧
    s.trace <+: t.trace ∧ ((∀ a, i ≠ .setAddr a) → t.devAddr = s.devAddr)

/-- STATUS, PCR and RES are written at the end of an operation and at no other time (R22, R33). -/
def Obligations.ResponseIsWrittenOnlyAtTheEnd : Prop :=
  ∀ (i : Instr) (s t : State), exec i s = .next t → t.phase ≠ .idle →
    t.status = s.status ∧ t.pcr = s.pcr ∧ t.res = s.res

/-- CFGBUF is written only by the commands that read CONFIG, RDBUF only by INIT, GET_TEMP and GET_FLAGS; the commands
without transactions leave buffers, trace, script and the device's bytes as they are (R25, R110, R187). -/
def Obligations.BuffersAreWrittenOnlyByTheirReads : Prop :=
  ∀ (i : Instr) (s t : State), exec i s = .next t →
    ((∀ A c, BusRequest.read A 0x01 2 ∉ i.transactions A c) → t.cfgBuf = s.cfgBuf) ∧
    ((i ≠ .init ∧ i ≠ .getTemp ∧ i ≠ .getFlags) → t.rdBuf = s.rdBuf) ∧
    (i.busFree = true → t.trace = s.trace ∧ t.script = s.script ∧ t.devMem = s.devMem)

/-- When nothing but the block writes the device, a command changes no byte of it but those at the addresses it stores
to, `Instr.storedAt`: the two bytes of CONFIG, T_UPPER and T_LOWER, or T_CRIT, the one byte of RESOLUTION, or none at all
(R55, R57, R187). -/
def Obligations.DeviceBytesKeepTheirFrame : Prop :=
  ∀ (i : Instr) (s t : State), s.devMem.wf = true → s.Undisturbed → exec i s = .next t →
    ∀ a, a ∉ i.storedAt → t.devMem.read a = s.devMem.read a

/-- DEV_ADDR is written by a reset and by SET_ADDR and by nothing else (R23). -/
def Obligations.OnlyResetAndSetAddrMoveTheBusAddress : Prop :=
  ∀ s t : State, step s = .next t → t.devAddr ≠ s.devAddr → t.opc = 0x17 ∨ ∃ l, s.hostIn = .reset :: l

/-! ### Invariant, progress, waiting -/

/-- The invariant holds after reset. -/
def Obligations.InvariantHoldsAtReset : Prop := State.reset.Inv

/-- Every step keeps the invariant: memory canonical, STATUS a code, PCR and RES as STATUS says, and an operation waits
only in one of its own phases, its request issued, a write only after guard, validation and gap test. -/
def Obligations.EveryStepKeepsTheInvariant : Prop :=
  ∀ s t : State, s.Inv → step s = .next t → t.Inv

/-- From a state that meets the invariant every step answers a next state: the machine never stops (R35, R220). -/
def Obligations.EveryStepGoesOn : Prop :=
  ∀ s : State, s.Inv → ∃ t, step s = .next t

/-- If the collaborator never answers, the operation never ends: without input, script and device a waiting operation
stays as it is for any number of steps (R247; that nothing scripted and no device means no answer is the model's, log 5). -/
def Obligations.UnansweredOperationWaitsForEver : Prop :=
  ∀ (s : State) (n : Nat), s.Inv → s.phase ≠ .idle → s.hostIn = [] → s.script = [] → s.refDev = none →
    core.run n s = .next s

/-- If the collaborator answers each request, three scripted answers or an attached device, every command started in
IDLE ends in IDLE within one exec (R162, R247, R250; the script is the model's, log 5). -/
def Obligations.AnsweredOperationsEnd : Prop :=
  (∀ (i : Instr) (s : State) (x y z : PortAnswer) (es : List BusEvent), s.phase = .idle →
    s.script = .answer x :: .answer y :: .answer z :: es → ∃ t, exec i s = .next t ∧ t.phase = .idle) ∧
  (∀ (i : Instr) (s : State) (A : Addr7), s.phase = .idle → s.script = [] → s.refDev = some A →
    ∃ t, exec i s = .next t ∧ t.phase = .idle)

/-- An answer that comes late changes nothing, whichever transaction it answers: an operation left waiting by a silent
moment, after any answers before it, ends when run on in the very state it would have reached without that moment
(R24, R51). The silent entry, and that the script left at `t` is what stood behind it, are the model's (log 5). -/
def Obligations.LateAnswerChangesNothing : Prop :=
  ∀ (i : Instr) (s t : State) (before after : List BusEvent), s.script = before ++ .silent :: after →
    exec i s = .next t → t.phase ≠ .idle → t.script = after → exec i t = exec i { s with script := before ++ after }

/-- How an operation found waiting goes on, phase by phase. In the phase of its first transaction it goes on as a command
just started in IDLE that has issued that transaction (a first write, SET_RESOLUTION's, only with a valid operand). INIT in
RD_ID2 compares the manufacturer byte; the seven field setters and CLEAR_INT in WR_1 wait for the write of the word made
from CFGBUF, SET_CRIT in WR_1 for its threshold; SET_WINDOW in WR_1 goes on to the lower threshold after Ack, and in WR_2
waits for that (R51, R52, R140, R152, R180, R184, R185). -/
def Obligations.WaitingOperationsResume : Prop :=
  (∀ (i : Instr) (s : State) (T : List BusRequest) (req : BusRequest), i.busPhases.head? = some s.phase →
    (i.transactions s.devAddr s.cfgBuf).head? = some req → s.trace = T ++ [req] →
    (s.phase.isWrite = true → i.wellFormed = true) → exec i s = exec i { s with phase := .idle, trace := T }) ∧
  (∀ s : State, s.phase = .rdId2 →
    s.AfterRead (.read s.devAddr 0x06 2) (exec .init s) fun m0 m1 t =>
      let u := { t with rdBuf := m0 ++ m1 }
      let m := if s.params.mfrIdByteIndex = 0 then m0 else m1
      (m ≠ s.params.expectedManufacturerId → exec .init s = .next (u.ended 5 false 0)) ∧
      (m = s.params.expectedManufacturerId → exec .init s = .next (u.ended 0 false 1))) ∧
  (∀ (i : Instr) (f : CfgField) (gated : Bool) (a : Word) (s : State), i.setter? = some (f, gated, a) → s.phase = .wr1 →
    let new := cfgPut f s.cfgBuf a
    s.AfterWrite (.write s.devAddr 0x01 [new.extractLsb' 8 8, new.extractLsb' 0 8]) (exec i s) fun t =>
      exec i s = .next (t.ended 0 false 0)) ∧
  (∀ s : State, s.phase = .wr1 →
    let new := s.cfgBuf ||| 0x0020
    s.AfterWrite (.write s.devAddr 0x01 [new.extractLsb' 8 8, new.extractLsb' 0 8]) (exec .clearInt s) fun t =>
      exec .clearInt s = .next (t.ended 0 false 0)) ∧
  (∀ (a : Word) (s : State), s.phase = .wr1 →
    let w := encT (a.extractLsb' 15 1) (a.extractLsb' 7 8) (a.extractLsb' 0 7)
    s.AfterWrite (.write s.devAddr 0x04 [w.extractLsb' 8 8, w.extractLsb' 0 8]) (exec (.setCrit a) s) fun t =>
      exec (.setCrit a) s = .next (t.ended 0 false 0)) ∧
  ∀ (hi lo : Word) (s : State),
    let up := encT (hi.extractLsb' 15 1) (hi.extractLsb' 7 8) (hi.extractLsb' 0 7)
    let dn := encT (lo.extractLsb' 15 1) (lo.extractLsb' 7 8) (lo.extractLsb' 0 7)
    let wr2 := BusRequest.write s.devAddr 0x03 [dn.extractLsb' 8 8, dn.extractLsb' 0 8]
    (s.phase = .wr1 →
      s.AfterWrite (.write s.devAddr 0x02 [up.extractLsb' 8 8, up.extractLsb' 0 8]) (exec (.setWindow hi lo) s) fun t =>
        (t.issue .wr2 wr2).AfterWrite wr2 (exec (.setWindow hi lo) s) fun u =>
          exec (.setWindow hi lo) s = .next (u.ended 0 false 0)) ∧
    (s.phase = .wr2 → s.AfterWrite wr2 (exec (.setWindow hi lo) s) fun t =>
      exec (.setWindow hi lo) s = .next (t.ended 0 false 0))

/-- Nothing is carried from one operation to the next: started in two states that agree on the bus address, the
parameters and the outside world, whatever the last response, the buffers and the command registers hold, a command
does the same on the bus and gives the same response (R25, R33, R220). -/
def Obligations.EarlierOperationsLeaveNoTrace : Prop :=
  ∀ (i : Instr) (s s' t : State), s.phase = .idle → s.SameWorld s' → exec i s = .next t →
    ∃ t', exec i s' = .next t' ∧ t.SameWorld t' ∧
      (t.phase = .idle → t'.status = t.status ∧ t'.pcr = t.pcr ∧ t'.res = t.res)

/-! ### The reference device -/

/-- REFDEV: a read gives the two bytes of the register, a write stores its bytes, a set lock bit of CONFIG stays set, the
other registers stay as they are; another address or a pointer outside the map answers Error and changes nothing (R62; the
layout of its bytes is the model's, log 7). -/
def Obligations.ReferenceDeviceStoresAndAnswers : Prop :=
  ∀ (A : Addr7) (m : Memory) (reg : Byte) (w : Word) (x : Byte), m.wf = true → 1 ≤ reg.toNat → reg.toNat ≤ 7 →
    refDevServe A (.read A reg 2) m = (.data [(devReg m reg).extractLsb' 8 8, (devReg m reg).extractLsb' 0 8], m) ∧
    (refDevServe A (.write A reg [w.extractLsb' 8 8, w.extractLsb' 0 8]) m).1 = .ack ∧
    (∀ r', r' ≠ reg →
      devReg (refDevServe A (.write A reg [w.extractLsb' 8 8, w.extractLsb' 0 8]) m).2 r' = devReg m r') ∧
    (reg ≠ 0x01 → devReg (refDevServe A (.write A reg [w.extractLsb' 8 8, w.extractLsb' 0 8]) m).2 reg = w) ∧
    (reg = 0x01 → devReg (refDevServe A (.write A reg [w.extractLsb' 8 8, w.extractLsb' 0 8]) m).2 reg =
      w ||| (devReg m 0x01 &&& 0x00C0)) ∧
    (refDevServe A (.write A 0x08 [x]) m).1 = .ack ∧
    (refDevServe A (.write A 0x08 [x]) m).2.read (regAddr 0x08) = x ∧
    devReg (refDevServe A (.write A 0x08 [x]) m).2 reg = devReg m reg ∧
    (∀ req : BusRequest, req.addr ≠ A → refDevServe A req m = (.error, m)) ∧
    (∀ req : BusRequest, (req.reg = 0 ∨ 8 < req.reg.toNat) → refDevServe A req m = (.error, m))

/-- With REFDEV attached, a field setter that ends with OK and the getter of the same field after it give back the value
set; for SET_LOCK the getter gives the value set ORed with the lock bits that were set before (R62, R123, R153).
That an attached device answers when nothing is scripted is the model's (log 5). -/
def Obligations.SetThenGetAgainstTheDevice : Prop :=
  ∀ (i j : Instr) (f : CfgField) (gated : Bool) (a : Word) (s t : State),
    i.setter? = some (f, gated, a) → j.getter? = some f → s.phase = .idle → s.script = [] →
    s.refDev = some s.devAddr → s.devMem.wf = true → exec i s = .next t → t.status = 0 →
    ∃ u, exec j t = .next u ∧ u.status = 0 ∧
      u.res = if f = .lockState then a ||| cfgGet .lockState (devReg s.devMem 0x01) else a

/-- The lock is one-way: no step clears a lock bit the reference device holds, as long as nothing but the block writes it
(R62, R245). -/
def Obligations.LockIsOneWayInTheDevice : Prop :=
  ∀ s t : State, s.devMem.wf = true → s.Undisturbed → step s = .next t →
    ∀ k, (k = 6 ∨ k = 7) → (devReg s.devMem 0x01).getLsbD k = true → (devReg t.devMem 0x01).getLsbD k = true

/-- A change of CONFIG between the read and the write of one operation is not noticed: the setter writes the word merged
from what it read, even when the change set a lock bit (R64; the change entry is the model's, log 5 and log 6). -/
def Obligations.ChangeAfterTheReadIsNotNoticed : Prop :=
  ∀ (i : Instr) (f : CfgField) (gated : Bool) (a v : Word) (s : State) (es : List BusEvent),
    i.setter? = some (f, gated, a) → s.phase = .idle → s.refDev = some s.devAddr → s.devMem.wf = true →
    s.script = .device :: .change 0x01 v :: .device :: es →
    (devReg s.devMem 0x01).extractLsb' 6 2 = 0 → a.toNat < 2 ^ fieldWidth f →
    ∃ t, exec i s = .next t ∧ t.status = 0 ∧ t.phase = .idle ∧
      t.trace = s.trace ++ [.read s.devAddr 0x01 2,
        .write s.devAddr 0x01 [(cfgPut f (devReg s.devMem 0x01) a).extractLsb' 8 8,
                               (cfgPut f (devReg s.devMem 0x01) a).extractLsb' 0 8]]
end

