-- ==== Sys2Proof/Laws/Memory.lean ====
section
/-! SUPPORT. The memory: read after write, and the canonical form every operation keeps. -/

namespace Sys2Proof.Machine.Memory

theorem wfFrom_mono {lo lo' : Nat} (h : lo' ≤ lo) : ∀ {m : Memory}, wfFrom lo m = true → wfFrom lo' m = true
  | [], _ => rfl
  | (k, b) :: m, hm => by
    simp only [wfFrom, Bool.and_eq_true, decide_eq_true_eq] at hm ⊢
    exact ⟨⟨h.trans hm.1.1, hm.1.2⟩, hm.2⟩

/-- Below its least address a canonical memory reads as unlisted. -/
theorem read_below {a : Nat} : ∀ {m : Memory} {lo : Nat}, wfFrom lo m = true → a < lo → read m a = unlistedByte
  | [], _, _, _ => rfl
  | (k, b) :: m, lo, hm, ha => by
    simp only [wfFrom, Bool.and_eq_true, decide_eq_true_eq] at hm
    rw [read, if_neg (by omega)]
    exact read_below hm.2 (by omega)

theorem wfFrom_write {a : Nat} {v : Byte} :
    ∀ {m : Memory} {lo : Nat}, wfFrom lo m = true → lo ≤ a → wfFrom lo (write m a v) = true
  | [], lo, _, ha => by
    unfold write
    split
    · rfl
    · next h => simp [wfFrom, ha, h]
  | (k, b) :: m, lo, hm, ha => by
    have hm' := hm
    simp only [wfFrom, Bool.and_eq_true, decide_eq_true_eq, bne_iff_ne] at hm'
    unfold write
    split
    · split
      · exact hm
      · next hak hv =>
        simp only [wfFrom, Bool.and_eq_true, decide_eq_true_eq, bne_iff_ne]
        exact ⟨⟨ha, hv⟩, ⟨hak, hm'.1.2⟩, hm'.2⟩
    · split
      · split
        · exact wfFrom_mono (by omega) hm'.2
        · next hak hv =>
          simp only [wfFrom, Bool.and_eq_true, decide_eq_true_eq, bne_iff_ne]
          exact ⟨⟨ha, hv⟩, by subst hak; exact hm'.2⟩
      · next h1 h2 =>
        simp only [wfFrom, Bool.and_eq_true, decide_eq_true_eq, bne_iff_ne]
        exact ⟨hm'.1, wfFrom_write hm'.2 (by omega)⟩

/-- A write keeps the canonical form. -/
theorem wf_write {m : Memory} (a : Nat) (v : Byte) (h : m.wf = true) : (m.write a v).wf = true :=
  wfFrom_write h (Nat.zero_le _)

/-- A byte written reads back. -/
theorem read_write_same {a : Nat} {v : Byte} :
    ∀ {m : Memory} {lo : Nat}, wfFrom lo m = true → read (write m a v) a = v
  | [], _, _ => by
    unfold write
    split
    · next h => simp [read, h]
    · simp [read]
  | (k, b) :: m, lo, hm => by
    simp only [wfFrom, Bool.and_eq_true, decide_eq_true_eq, bne_iff_ne] at hm
    unfold write
    split
    · split
      · next hak hv => rw [read, if_neg (by omega), hv]; exact read_below hm.2 (by omega)
      · simp [read]
    · split
      · split
        · next hak hv => rw [hv]; exact read_below hm.2 (by omega)
        · simp [read]
      · next h1 h2 => rw [read, if_neg (fun h => h2 h.symm)]; exact read_write_same hm.2

/-- A write leaves every other byte alone. -/
theorem read_write_other {a c : Nat} {v : Byte} (hac : c ≠ a) :
    ∀ {m : Memory} {lo : Nat}, wfFrom lo m = true → read (write m a v) c = read m c
  | [], _, _ => by
    unfold write
    split
    · rfl
    · simp [read, hac.symm]
  | (k, b) :: m, lo, hm => by
    simp only [wfFrom, Bool.and_eq_true, decide_eq_true_eq, bne_iff_ne] at hm
    unfold write
    split
    · split
      · rfl
      · simp [read, hac.symm]
    · split
      · next h1 hak =>
        have hkc : k ≠ c := by omega
        split
        · rw [read, if_neg hkc]
        · rw [read, if_neg hac.symm, read, if_neg hkc]
      · rw [read, read]
        split
        · rfl
        · exact read_write_other hac hm.2

theorem wf_writeBytes : ∀ (bs : List Byte) {m : Memory} (a : Nat), m.wf = true → (m.writeBytes a bs).wf = true
  | [], _, _, h => h
  | b :: bs, _, a, h => wf_writeBytes bs (a + 1) (wf_write a b h)

/-- Storing bytes leaves every byte outside them alone. -/
theorem read_writeBytes_other {c : Nat} :
    ∀ (bs : List Byte) {m : Memory} (a : Nat), m.wf = true → (c < a ∨ a + bs.length ≤ c) →
      (m.writeBytes a bs).read c = m.read c
  | [], _, _, _, _ => rfl
  | b :: bs, m, a, h, hc => by
    rw [writeBytes, read_writeBytes_other bs (a + 1) (wf_write a b h) (by simp at hc; omega)]
    exact read_write_other (by simp at hc; omega) h

/-- The two bytes a two-byte write stores read back. -/
theorem read_writeBytes_pair {m : Memory} (a : Nat) (x y : Byte) (h : m.wf = true) :
    (m.writeBytes a [x, y]).read a = x ∧ (m.writeBytes a [x, y]).read (a + 1) = y :=
  ⟨(read_write_other (by omega) (wf_write a x h)).trans (read_write_same h), read_write_same (wf_write a x h)⟩

end Sys2Proof.Machine.Memory
end

