-- ==== Sys2Proof/Laws/State.lean ====
section
/-! SUPPORT. One lemma per field per update of State. -/

namespace Sys2Proof.Machine.State

variable (s : State)

/-! ### finish -/

@[simp] theorem finish_opc (st : Status) (v : Word) : (s.finish st v).opc = s.opc := rfl
@[simp] theorem finish_opa (st : Status) (v : Word) : (s.finish st v).opa = s.opa := rfl
@[simp] theorem finish_opb (st : Status) (v : Word) : (s.finish st v).opb = s.opb := rfl
@[simp] theorem finish_res (st : Status) (v : Word) : (s.finish st v).res = v := rfl
@[simp] theorem finish_status (st : Status) (v : Word) : (s.finish st v).status = st.code := rfl
@[simp] theorem finish_pcr (st : Status) (v : Word) : (s.finish st v).pcr = st.powerCycleRequired := rfl
@[simp] theorem finish_devAddr (st : Status) (v : Word) : (s.finish st v).devAddr = s.devAddr := rfl
@[simp] theorem finish_phase (st : Status) (v : Word) : (s.finish st v).phase = .idle := rfl
@[simp] theorem finish_cfgBuf (st : Status) (v : Word) : (s.finish st v).cfgBuf = s.cfgBuf := rfl
@[simp] theorem finish_rdBuf (st : Status) (v : Word) : (s.finish st v).rdBuf = s.rdBuf := rfl
@[simp] theorem finish_params (st : Status) (v : Word) : (s.finish st v).params = s.params := rfl
@[simp] theorem finish_hostIn (st : Status) (v : Word) : (s.finish st v).hostIn = s.hostIn := rfl
@[simp] theorem finish_script (st : Status) (v : Word) : (s.finish st v).script = s.script := rfl
@[simp] theorem finish_refDev (st : Status) (v : Word) : (s.finish st v).refDev = s.refDev := rfl
@[simp] theorem finish_devMem (st : Status) (v : Word) : (s.finish st v).devMem = s.devMem := rfl
@[simp] theorem finish_trace (st : Status) (v : Word) : (s.finish st v).trace = s.trace := rfl

/-! ### enter -/

@[simp] theorem enter_opc (ph : Phase) : (s.enter ph).opc = s.opc := rfl
@[simp] theorem enter_opa (ph : Phase) : (s.enter ph).opa = s.opa := rfl
@[simp] theorem enter_opb (ph : Phase) : (s.enter ph).opb = s.opb := rfl
@[simp] theorem enter_res (ph : Phase) : (s.enter ph).res = s.res := rfl
@[simp] theorem enter_status (ph : Phase) : (s.enter ph).status = s.status := rfl
@[simp] theorem enter_pcr (ph : Phase) : (s.enter ph).pcr = s.pcr := rfl
@[simp] theorem enter_devAddr (ph : Phase) : (s.enter ph).devAddr = s.devAddr := rfl
@[simp] theorem enter_phase (ph : Phase) : (s.enter ph).phase = ph := rfl
@[simp] theorem enter_cfgBuf (ph : Phase) : (s.enter ph).cfgBuf = s.cfgBuf := rfl
@[simp] theorem enter_rdBuf (ph : Phase) : (s.enter ph).rdBuf = s.rdBuf := rfl
@[simp] theorem enter_params (ph : Phase) : (s.enter ph).params = s.params := rfl
@[simp] theorem enter_hostIn (ph : Phase) : (s.enter ph).hostIn = s.hostIn := rfl
@[simp] theorem enter_script (ph : Phase) : (s.enter ph).script = s.script := rfl
@[simp] theorem enter_refDev (ph : Phase) : (s.enter ph).refDev = s.refDev := rfl
@[simp] theorem enter_devMem (ph : Phase) : (s.enter ph).devMem = s.devMem := rfl
@[simp] theorem enter_trace (ph : Phase) : (s.enter ph).trace = s.trace := rfl

/-! ### issue -/

@[simp] theorem issue_opc (ph : Phase) (req : BusRequest) : (s.issue ph req).opc = s.opc := rfl
@[simp] theorem issue_opa (ph : Phase) (req : BusRequest) : (s.issue ph req).opa = s.opa := rfl
@[simp] theorem issue_opb (ph : Phase) (req : BusRequest) : (s.issue ph req).opb = s.opb := rfl
@[simp] theorem issue_res (ph : Phase) (req : BusRequest) : (s.issue ph req).res = s.res := rfl
@[simp] theorem issue_status (ph : Phase) (req : BusRequest) : (s.issue ph req).status = s.status := rfl
@[simp] theorem issue_pcr (ph : Phase) (req : BusRequest) : (s.issue ph req).pcr = s.pcr := rfl
@[simp] theorem issue_devAddr (ph : Phase) (req : BusRequest) : (s.issue ph req).devAddr = s.devAddr := rfl
@[simp] theorem issue_phase (ph : Phase) (req : BusRequest) : (s.issue ph req).phase = ph := rfl
@[simp] theorem issue_cfgBuf (ph : Phase) (req : BusRequest) : (s.issue ph req).cfgBuf = s.cfgBuf := rfl
@[simp] theorem issue_rdBuf (ph : Phase) (req : BusRequest) : (s.issue ph req).rdBuf = s.rdBuf := rfl
@[simp] theorem issue_params (ph : Phase) (req : BusRequest) : (s.issue ph req).params = s.params := rfl
@[simp] theorem issue_hostIn (ph : Phase) (req : BusRequest) : (s.issue ph req).hostIn = s.hostIn := rfl
@[simp] theorem issue_script (ph : Phase) (req : BusRequest) : (s.issue ph req).script = s.script := rfl
@[simp] theorem issue_refDev (ph : Phase) (req : BusRequest) : (s.issue ph req).refDev = s.refDev := rfl
@[simp] theorem issue_devMem (ph : Phase) (req : BusRequest) : (s.issue ph req).devMem = s.devMem := rfl
@[simp] theorem issue_trace (ph : Phase) (req : BusRequest) : (s.issue ph req).trace = s.trace ++ [req] := rfl

/-! ### setCfgBuf -/

@[simp] theorem setCfgBuf_opc (w : Word) : (s.setCfgBuf w).opc = s.opc := rfl
@[simp] theorem setCfgBuf_opa (w : Word) : (s.setCfgBuf w).opa = s.opa := rfl
@[simp] theorem setCfgBuf_opb (w : Word) : (s.setCfgBuf w).opb = s.opb := rfl
@[simp] theorem setCfgBuf_res (w : Word) : (s.setCfgBuf w).res = s.res := rfl
@[simp] theorem setCfgBuf_status (w : Word) : (s.setCfgBuf w).status = s.status := rfl
@[simp] theorem setCfgBuf_pcr (w : Word) : (s.setCfgBuf w).pcr = s.pcr := rfl
@[simp] theorem setCfgBuf_devAddr (w : Word) : (s.setCfgBuf w).devAddr = s.devAddr := rfl
@[simp] theorem setCfgBuf_phase (w : Word) : (s.setCfgBuf w).phase = s.phase := rfl
@[simp] theorem setCfgBuf_cfgBuf (w : Word) : (s.setCfgBuf w).cfgBuf = w := rfl
@[simp] theorem setCfgBuf_rdBuf (w : Word) : (s.setCfgBuf w).rdBuf = s.rdBuf := rfl
@[simp] theorem setCfgBuf_params (w : Word) : (s.setCfgBuf w).params = s.params := rfl
@[simp] theorem setCfgBuf_hostIn (w : Word) : (s.setCfgBuf w).hostIn = s.hostIn := rfl
@[simp] theorem setCfgBuf_script (w : Word) : (s.setCfgBuf w).script = s.script := rfl
@[simp] theorem setCfgBuf_refDev (w : Word) : (s.setCfgBuf w).refDev = s.refDev := rfl
@[simp] theorem setCfgBuf_devMem (w : Word) : (s.setCfgBuf w).devMem = s.devMem := rfl
@[simp] theorem setCfgBuf_trace (w : Word) : (s.setCfgBuf w).trace = s.trace := rfl

/-! ### setRdBuf -/

@[simp] theorem setRdBuf_opc (w : Word) : (s.setRdBuf w).opc = s.opc := rfl
@[simp] theorem setRdBuf_opa (w : Word) : (s.setRdBuf w).opa = s.opa := rfl
@[simp] theorem setRdBuf_opb (w : Word) : (s.setRdBuf w).opb = s.opb := rfl
@[simp] theorem setRdBuf_res (w : Word) : (s.setRdBuf w).res = s.res := rfl
@[simp] theorem setRdBuf_status (w : Word) : (s.setRdBuf w).status = s.status := rfl
@[simp] theorem setRdBuf_pcr (w : Word) : (s.setRdBuf w).pcr = s.pcr := rfl
@[simp] theorem setRdBuf_devAddr (w : Word) : (s.setRdBuf w).devAddr = s.devAddr := rfl
@[simp] theorem setRdBuf_phase (w : Word) : (s.setRdBuf w).phase = s.phase := rfl
@[simp] theorem setRdBuf_cfgBuf (w : Word) : (s.setRdBuf w).cfgBuf = s.cfgBuf := rfl
@[simp] theorem setRdBuf_rdBuf (w : Word) : (s.setRdBuf w).rdBuf = w := rfl
@[simp] theorem setRdBuf_params (w : Word) : (s.setRdBuf w).params = s.params := rfl
@[simp] theorem setRdBuf_hostIn (w : Word) : (s.setRdBuf w).hostIn = s.hostIn := rfl
@[simp] theorem setRdBuf_script (w : Word) : (s.setRdBuf w).script = s.script := rfl
@[simp] theorem setRdBuf_refDev (w : Word) : (s.setRdBuf w).refDev = s.refDev := rfl
@[simp] theorem setRdBuf_devMem (w : Word) : (s.setRdBuf w).devMem = s.devMem := rfl
@[simp] theorem setRdBuf_trace (w : Word) : (s.setRdBuf w).trace = s.trace := rfl

/-! ### setDevAddr -/

@[simp] theorem setDevAddr_opc (a : Addr7) : (s.setDevAddr a).opc = s.opc := rfl
@[simp] theorem setDevAddr_opa (a : Addr7) : (s.setDevAddr a).opa = s.opa := rfl
@[simp] theorem setDevAddr_opb (a : Addr7) : (s.setDevAddr a).opb = s.opb := rfl
@[simp] theorem setDevAddr_res (a : Addr7) : (s.setDevAddr a).res = s.res := rfl
@[simp] theorem setDevAddr_status (a : Addr7) : (s.setDevAddr a).status = s.status := rfl
@[simp] theorem setDevAddr_pcr (a : Addr7) : (s.setDevAddr a).pcr = s.pcr := rfl
@[simp] theorem setDevAddr_devAddr (a : Addr7) : (s.setDevAddr a).devAddr = a := rfl
@[simp] theorem setDevAddr_phase (a : Addr7) : (s.setDevAddr a).phase = s.phase := rfl
@[simp] theorem setDevAddr_cfgBuf (a : Addr7) : (s.setDevAddr a).cfgBuf = s.cfgBuf := rfl
@[simp] theorem setDevAddr_rdBuf (a : Addr7) : (s.setDevAddr a).rdBuf = s.rdBuf := rfl
@[simp] theorem setDevAddr_params (a : Addr7) : (s.setDevAddr a).params = s.params := rfl
@[simp] theorem setDevAddr_hostIn (a : Addr7) : (s.setDevAddr a).hostIn = s.hostIn := rfl
@[simp] theorem setDevAddr_script (a : Addr7) : (s.setDevAddr a).script = s.script := rfl
@[simp] theorem setDevAddr_refDev (a : Addr7) : (s.setDevAddr a).refDev = s.refDev := rfl
@[simp] theorem setDevAddr_devMem (a : Addr7) : (s.setDevAddr a).devMem = s.devMem := rfl
@[simp] theorem setDevAddr_trace (a : Addr7) : (s.setDevAddr a).trace = s.trace := rfl

/-! ### setHostIn -/

@[simp] theorem setHostIn_opc (l : List HostInput) : (s.setHostIn l).opc = s.opc := rfl
@[simp] theorem setHostIn_opa (l : List HostInput) : (s.setHostIn l).opa = s.opa := rfl
@[simp] theorem setHostIn_opb (l : List HostInput) : (s.setHostIn l).opb = s.opb := rfl
@[simp] theorem setHostIn_res (l : List HostInput) : (s.setHostIn l).res = s.res := rfl
@[simp] theorem setHostIn_status (l : List HostInput) : (s.setHostIn l).status = s.status := rfl
@[simp] theorem setHostIn_pcr (l : List HostInput) : (s.setHostIn l).pcr = s.pcr := rfl
@[simp] theorem setHostIn_devAddr (l : List HostInput) : (s.setHostIn l).devAddr = s.devAddr := rfl
@[simp] theorem setHostIn_phase (l : List HostInput) : (s.setHostIn l).phase = s.phase := rfl
@[simp] theorem setHostIn_cfgBuf (l : List HostInput) : (s.setHostIn l).cfgBuf = s.cfgBuf := rfl
@[simp] theorem setHostIn_rdBuf (l : List HostInput) : (s.setHostIn l).rdBuf = s.rdBuf := rfl
@[simp] theorem setHostIn_params (l : List HostInput) : (s.setHostIn l).params = s.params := rfl
@[simp] theorem setHostIn_hostIn (l : List HostInput) : (s.setHostIn l).hostIn = l := rfl
@[simp] theorem setHostIn_script (l : List HostInput) : (s.setHostIn l).script = s.script := rfl
@[simp] theorem setHostIn_refDev (l : List HostInput) : (s.setHostIn l).refDev = s.refDev := rfl
@[simp] theorem setHostIn_devMem (l : List HostInput) : (s.setHostIn l).devMem = s.devMem := rfl
@[simp] theorem setHostIn_trace (l : List HostInput) : (s.setHostIn l).trace = s.trace := rfl

/-! ### served -/

@[simp] theorem served_opc (req : BusRequest) : (s.served req).opc = s.opc := rfl
@[simp] theorem served_opa (req : BusRequest) : (s.served req).opa = s.opa := rfl
@[simp] theorem served_opb (req : BusRequest) : (s.served req).opb = s.opb := rfl
@[simp] theorem served_res (req : BusRequest) : (s.served req).res = s.res := rfl
@[simp] theorem served_status (req : BusRequest) : (s.served req).status = s.status := rfl
@[simp] theorem served_pcr (req : BusRequest) : (s.served req).pcr = s.pcr := rfl
@[simp] theorem served_devAddr (req : BusRequest) : (s.served req).devAddr = s.devAddr := rfl
@[simp] theorem served_phase (req : BusRequest) : (s.served req).phase = s.phase := rfl
@[simp] theorem served_cfgBuf (req : BusRequest) : (s.served req).cfgBuf = s.cfgBuf := rfl
@[simp] theorem served_rdBuf (req : BusRequest) : (s.served req).rdBuf = s.rdBuf := rfl
@[simp] theorem served_params (req : BusRequest) : (s.served req).params = s.params := rfl
@[simp] theorem served_hostIn (req : BusRequest) : (s.served req).hostIn = s.hostIn := rfl
@[simp] theorem served_script (req : BusRequest) : (s.served req).script = (serve req s.refDev s.script s.devMem).2.1 := rfl
@[simp] theorem served_refDev (req : BusRequest) : (s.served req).refDev = s.refDev := rfl
@[simp] theorem served_devMem (req : BusRequest) : (s.served req).devMem = (serve req s.refDev s.script s.devMem).2.2 := rfl
@[simp] theorem served_trace (req : BusRequest) : (s.served req).trace = s.trace := rfl

/-! ### blockReset -/

@[simp] theorem blockReset_params : s.blockReset.params = s.params := rfl
@[simp] theorem blockReset_hostIn : s.blockReset.hostIn = s.hostIn := rfl
@[simp] theorem blockReset_script : s.blockReset.script = s.script := rfl
@[simp] theorem blockReset_refDev : s.blockReset.refDev = s.refDev := rfl
@[simp] theorem blockReset_devMem : s.blockReset.devMem = s.devMem := rfl
@[simp] theorem blockReset_trace : s.blockReset.trace = s.trace := rfl
@[simp] theorem blockReset_devAddr : s.blockReset.devAddr = 0x18 := rfl
@[simp] theorem blockReset_phase : s.blockReset.phase = .idle := rfl
@[simp] theorem blockReset_status : s.blockReset.status = 0 := rfl
@[simp] theorem blockReset_pcr : s.blockReset.pcr = false := rfl
@[simp] theorem blockReset_res : s.blockReset.res = 0 := rfl

/-! ### accept -/

theorem accept_busy (w : Cmd) (h : s.phase ≠ .idle) : s.accept w = s := if_neg h

theorem accept_idle (w : Cmd) (h : s.phase = .idle) :
    s.accept w = { s with opc := opcField w, opa := opaField w, opb := opbField w } := if_pos h

@[simp] theorem accept_res (w : Cmd) : (s.accept w).res = s.res := by unfold accept; split <;> rfl
@[simp] theorem accept_status (w : Cmd) : (s.accept w).status = s.status := by unfold accept; split <;> rfl
@[simp] theorem accept_pcr (w : Cmd) : (s.accept w).pcr = s.pcr := by unfold accept; split <;> rfl
@[simp] theorem accept_devAddr (w : Cmd) : (s.accept w).devAddr = s.devAddr := by unfold accept; split <;> rfl
@[simp] theorem accept_phase (w : Cmd) : (s.accept w).phase = s.phase := by unfold accept; split <;> rfl
@[simp] theorem accept_cfgBuf (w : Cmd) : (s.accept w).cfgBuf = s.cfgBuf := by unfold accept; split <;> rfl
@[simp] theorem accept_rdBuf (w : Cmd) : (s.accept w).rdBuf = s.rdBuf := by unfold accept; split <;> rfl
@[simp] theorem accept_params (w : Cmd) : (s.accept w).params = s.params := by unfold accept; split <;> rfl
@[simp] theorem accept_hostIn (w : Cmd) : (s.accept w).hostIn = s.hostIn := by unfold accept; split <;> rfl
@[simp] theorem accept_script (w : Cmd) : (s.accept w).script = s.script := by unfold accept; split <;> rfl
@[simp] theorem accept_refDev (w : Cmd) : (s.accept w).refDev = s.refDev := by unfold accept; split <;> rfl
@[simp] theorem accept_devMem (w : Cmd) : (s.accept w).devMem = s.devMem := by unfold accept; split <;> rfl
@[simp] theorem accept_trace (w : Cmd) : (s.accept w).trace = s.trace := by unfold accept; split <;> rfl

end Sys2Proof.Machine.State
end

