-- ==== Sys2Proof/Laws/Bus.lean ====
section
/-! SUPPORT. The bus port and the shared operations: what each answers, case by case, and everything it can do when it
answers a next state. -/

namespace Sys2Proof.Machine

/-! ### The device's memory stays canonical -/

theorem wf_refDevServe {m : Memory} (a : Addr7) (req : BusRequest) (h : m.wf = true) :
    (refDevServe a req m).2.wf = true := by
  unfold refDevServe
  split
  · cases req with
    | read _ _ _ => exact h
    | write _ _ _ => exact Memory.wf_writeBytes _ _ h
  · exact h

theorem wf_devChange {m : Memory} (reg : Byte) (v : Word) (h : m.wf = true) : (devChange reg v m).wf = true := by
  unfold devChange
  split <;> exact Memory.wf_writeBytes _ _ h

section Serve

variable (req : BusRequest) (dev : Option Addr7) (es : List BusEvent) (m : Memory)

@[simp] theorem serve_answer (a : PortAnswer) : serve req dev (.answer a :: es) m = (some (req.deliver a), es, m) := by
  rw [serve]

@[simp] theorem serve_silent : serve req dev (.silent :: es) m = (none, es, m) := by rw [serve]

@[simp] theorem serve_change (reg : Byte) (v : Word) :
    serve req dev (.change reg v :: es) m = serve req dev es (devChange reg v m) := by rw [serve]

@[simp] theorem serve_nil_none : serve req none [] m = (none, [], m) := by rw [serve]

@[simp] theorem serve_nil_some (a : Addr7) :
    serve req (some a) [] m = (some (refDevServe a req m).1, [], (refDevServe a req m).2) := by rw [serve]

@[simp] theorem serve_device_none : serve req none (.device :: es) m = (some .error, es, m) := by rw [serve]

@[simp] theorem serve_device_some (a : Addr7) :
    serve req (some a) (.device :: es) m = (some (refDevServe a req m).1, es, (refDevServe a req m).2) := by rw [serve]

end Serve

/-- The collaborator keeps the device's memory canonical. -/
theorem wf_serve (req : BusRequest) (dev : Option Addr7) :
    ∀ (es : List BusEvent) {m : Memory}, m.wf = true → (serve req dev es m).2.2.wf = true
  | [], m, h => by
    cases dev with
    | none => simpa using h
    | some a => simpa using wf_refDevServe a req h
  | .answer _ :: _, _, h => by simpa using h
  | .silent :: _, _, h => by simpa using h
  | .device :: _, m, h => by
    cases dev with
    | none => simpa using h
    | some a => simpa using wf_refDevServe a req h
  | .change reg v :: es, _, h => by rw [serve_change]; exact wf_serve req dev es (wf_devChange reg v h)

/-- What is left of the collaborator's script is an end of it. -/
theorem serve_script_suffix (req : BusRequest) (dev : Option Addr7) :
    ∀ (es : List BusEvent) (m : Memory), (serve req dev es m).2.1 <:+ es
  | [], m => by cases dev <;> simp
  | .answer a :: es, m => by simp
  | .silent :: es, m => by simp
  | .device :: es, m => by cases dev <;> simp
  | .change reg v :: es, m => by
    rw [serve_change]
    exact (serve_script_suffix req dev es (devChange reg v m)).trans (List.suffix_cons _ es)

/-- What serving a request does with a silent moment that stands somewhere in the script: it meets that moment and gives no
answer; or it meets an earlier one; or it answers, as it would without the moment, and the moment still stands in the rest. -/
theorem serve_silent_cases (req : BusRequest) (dev : Option Addr7) (after : List BusEvent) :
    ∀ (before : List BusEvent) (m : Memory),
      (∃ m', serve req dev (before ++ .silent :: after) m = (none, after, m') ∧
        serve req dev (before ++ after) m = serve req dev after m') ∨
      (∃ rest m', serve req dev (before ++ .silent :: after) m = (none, rest ++ .silent :: after, m')) ∨
      ∃ a rest m', serve req dev (before ++ .silent :: after) m = (some a, rest ++ .silent :: after, m') ∧
        serve req dev (before ++ after) m = (some a, rest ++ after, m')
  | [], m => .inl ⟨m, by simp, by simp⟩
  | .answer a :: es, m => .inr (.inr ⟨_, es, m, serve_answer .., serve_answer ..⟩)
  | .silent :: es, m => .inr (.inl ⟨es, m, by simp⟩)
  | .device :: es, m => by
    cases dev with
    | none => exact .inr (.inr ⟨_, es, m, serve_device_none .., serve_device_none ..⟩)
    | some a => exact .inr (.inr ⟨_, es, _, serve_device_some .., serve_device_some ..⟩)
  | .change reg v :: es, m => by
    simp only [List.cons_append, serve_change]
    exact serve_silent_cases req dev after es (devChange reg v m)

theorem refDevServe_read (a A : Addr7) (reg : Byte) (m : Memory) :
    (refDevServe a (.read A reg 2) m).1 = .error ∨ ∃ x y, (refDevServe a (.read A reg 2) m).1 = .data [x, y] := by
  unfold refDevServe
  split
  · exact .inr ⟨_, _, rfl⟩
  · exact .inl rfl

theorem refDevServe_write (a A : Addr7) (reg : Byte) (bs : List Byte) (m : Memory) :
    (refDevServe a (.write A reg bs) m).1 = .error ∨ (refDevServe a (.write A reg bs) m).1 = .ack := by
  unfold refDevServe
  split
  · exact .inr rfl
  · exact .inl rfl

/-- The port delivers to a two-byte read two bytes or Error, never Ack. -/
theorem serve_read_answer (A : Addr7) (reg : Byte) (dev : Option Addr7) :
    ∀ (es : List BusEvent) (m : Memory),
      (serve (.read A reg 2) dev es m).1 = none ∨ (serve (.read A reg 2) dev es m).1 = some .error ∨
      ∃ x y, (serve (.read A reg 2) dev es m).1 = some (.data [x, y])
  | [], m => by
    cases dev with
    | none => simp
    | some a => simpa using refDevServe_read a A reg m
  | .answer a :: es, m => by
    refine .inr ?_
    rw [serve_answer]
    cases a with
    | ack => exact .inl rfl
    | error => exact .inl rfl
    | data bs =>
      match bs with
      | [] => exact .inl rfl
      | [_] => exact .inl rfl
      | [x, y] => exact .inr ⟨x, y, rfl⟩
      | _ :: _ :: _ :: _ => exact .inl (by simp [BusRequest.deliver])
  | .silent :: es, m => by simp
  | .device :: es, m => by
    cases dev with
    | none => simp
    | some a => simpa using refDevServe_read a A reg m
  | .change reg' v :: es, m => by
    rw [serve_change]; exact serve_read_answer A reg dev es (devChange reg' v m)

/-- The port answers a write with Ack or Error. -/
theorem serve_write_answer (A : Addr7) (reg : Byte) (bs : List Byte) (dev : Option Addr7) :
    ∀ (es : List BusEvent) (m : Memory),
      (serve (.write A reg bs) dev es m).1 = none ∨ (serve (.write A reg bs) dev es m).1 = some .error ∨
      (serve (.write A reg bs) dev es m).1 = some .ack
  | [], m => by
    cases dev with
    | none => simp
    | some a => simpa using refDevServe_write a A reg bs m
  | .answer a :: es, m => by cases a <;> simp [BusRequest.deliver]
  | .silent :: es, m => by simp
  | .device :: es, m => by
    cases dev with
    | none => simp
    | some a => simpa using refDevServe_write a A reg bs m
  | .change reg' v :: es, m => by
    rw [serve_change]; exact serve_write_answer A reg bs dev es (devChange reg' v m)

theorem answer_read (s : State) (reg : Byte) :
    s.answer (s.readReq reg) = none ∨ s.answer (s.readReq reg) = some .error ∨
      ∃ x y, s.answer (s.readReq reg) = some (.data [x, y]) :=
  serve_read_answer _ _ _ _ _

theorem answer_write (s : State) (reg : Byte) (v : Word) :
    s.answer (s.writeReq reg v) = none ∨ s.answer (s.writeReq reg v) = some .error ∨
      s.answer (s.writeReq reg v) = some .ack :=
  serve_write_answer _ _ _ _ _ _

/-! ### Waiting for an answer, case by case -/

section Await

variable {req : BusRequest} {s t : State}

@[simp] theorem wordOfBytes_pair (x y : Byte) : wordOfBytes [x, y] = wordOf x y := rfl

theorem awaitRead_none (k : Word → State → Result) (h : s.answer req = none) :
    awaitRead req k s = .next (s.served req) := by simp only [awaitRead, h]

theorem awaitRead_data (k : Word → State → Result) {bs : List Byte} (h : s.answer req = some (.data bs)) :
    awaitRead req k s = k (wordOfBytes bs) (s.served req) := by simp only [awaitRead, h]

/-- An answer of two bytes goes on with their word (R51, R53). -/
theorem awaitRead_pair (k : Word → State → Result) {x y : Byte} (h : s.answer req = some (.data [x, y])) :
    awaitRead req k s = k (wordOf x y) (s.served req) := by rw [awaitRead_data k h]; rfl

theorem awaitRead_error (k : Word → State → Result) (h : s.answer req = some .error) :
    awaitRead req k s = .next ((s.served req).finish .busError 0) := by simp only [awaitRead, h, raise]

theorem awaitWrite_none (k : State → Result) (h : s.answer req = none) :
    awaitWrite req k s = .next (s.served req) := by simp only [awaitWrite, h]

theorem awaitWrite_ack (k : State → Result) (h : s.answer req = some .ack) :
    awaitWrite req k s = k (s.served req) := by simp only [awaitWrite, h]

theorem awaitWrite_error (k : State → Result) (h : s.answer req = some .error) :
    awaitWrite req k s = .next ((s.served req).finish .busError 0) := by simp only [awaitWrite, h, raise]

/-- All a wait for a read can do: wait on, go on with the bytes, or end with BusError. -/
theorem awaitRead_cases {k : Word → State → Result} (h : awaitRead req k s = .next t) :
    (s.answer req = none ∧ t = s.served req) ∨
    (∃ bs, s.answer req = some (.data bs) ∧ k (wordOfBytes bs) (s.served req) = .next t) ∨
    (t = (s.served req).finish .busError 0) := by
  unfold awaitRead at h
  split at h
  · next hn => exact .inl ⟨hn, by simpa using h.symm⟩
  · next bs hd => exact .inr (.inl ⟨bs, hd, h⟩)
  · exact .inr (.inr (by simpa [raise] using h.symm))
  · exact .inr (.inr (by simpa [raise] using h.symm))

/-- All a wait for a write can do: wait on, go on, or end with BusError. -/
theorem awaitWrite_cases {k : State → Result} (h : awaitWrite req k s = .next t) :
    (s.answer req = none ∧ t = s.served req) ∨
    (s.answer req = some .ack ∧ k (s.served req) = .next t) ∨
    (t = (s.served req).finish .busError 0) := by
  unfold awaitWrite at h
  split at h
  · next hn => exact .inl ⟨hn, by simpa using h.symm⟩
  · next ha => exact .inr (.inl ⟨ha, h⟩)
  · exact .inr (.inr (by simpa [raise] using h.symm))
  · exact .inr (.inr (by simpa [raise] using h.symm))

@[simp] theorem raise_eq_next (st : Status) : raise st s = .next t ↔ s.finish st 0 = t := by simp [raise]

@[simp] theorem done_eq_next (v : Word) : done v s = .next t ↔ s.finish .ok v = t := by simp [done]

/-- All an operation without transactions can do. -/
theorem checkOnly_cases {k : State → Result} (h : checkOnly k s = .next t) : k (s.enter .check) = .next t := by
  unfold checkOnly at h
  split at h <;> first | exact h | cases h

theorem checkOnly_idle (k : State → Result) (h : s.phase = .idle) : checkOnly k s = k (s.enter .check) := by
  simp only [checkOnly, h]

end Await

end Sys2Proof.Machine
end

