-- ==== Sys2Proof/Laws/Encoding.lean ====
section
/-! SUPPORT. The command word as a number, and its three fields read back. -/

namespace Sys2Proof

/-- Concatenation as arithmetic. -/
theorem toNat_append {n m : Nat} (x : BitVec n) (y : BitVec m) : (x ++ y).toNat = x.toNat * 2 ^ m + y.toNat := by
  rw [BitVec.toNat_append, ← Nat.shiftLeft_add_eq_or_of_lt y.isLt, Nat.shiftLeft_eq]

/-- The word `{opc, opa, opb}` as a number (R80). -/
theorem toNat_cmdWord (o : Byte) (a b : Word) :
    (cmdWord o a b).toNat = o.toNat * 2 ^ 32 + a.toNat * 2 ^ 16 + b.toNat := by
  have h : (cmdWord o a b).toNat = (o ++ a ++ b).toNat := rfl
  rw [h, toNat_append, toNat_append]
  ring

@[simp] theorem opcField_cmdWord (o : Byte) (a b : Word) : opcField (cmdWord o a b) = o := by
  apply BitVec.eq_of_toNat_eq
  simp only [opcField, BitVec.extractLsb'_toNat, toNat_cmdWord, Nat.shiftRight_eq_div_pow]
  omega

@[simp] theorem opaField_cmdWord (o : Byte) (a b : Word) : opaField (cmdWord o a b) = a := by
  apply BitVec.eq_of_toNat_eq
  simp only [opaField, BitVec.extractLsb'_toNat, toNat_cmdWord, Nat.shiftRight_eq_div_pow]
  omega

@[simp] theorem opbField_cmdWord (o : Byte) (a b : Word) : opbField (cmdWord o a b) = b := by
  apply BitVec.eq_of_toNat_eq
  simp only [opbField, BitVec.extractLsb'_toNat, toNat_cmdWord, Nat.shiftRight_eq_div_pow]
  omega

end Sys2Proof
end

