-- ==== Sys2Proof/Laws/Codec.lean ====
section
/-! SUPPORT. The codec's functions as arithmetic, and the field functions bit by bit. -/

namespace Sys2Proof.Machine

/-- The codes of `decimalBin` as numbers (R111). -/
theorem decimalBin_toNat (F : BitVec 7) : (decimalBin F).toNat =
    if F.toNat = 0 then 0 else if F.toNat ≤ 25 then 4 else if F.toNat ≤ 49 then 8 else 12 := by
  unfold decimalBin
  split_ifs <;> rfl

/-- `decT` as a number (R112); the subtraction does not wrap. -/
theorem decT_toNat (W : Word) : (decT W).toNat =
    if W.getLsbD 12 = true then 4096 - (magnitude W).toNat else (magnitude W).toNat := by
  have := (magnitude W).isLt
  unfold decT
  split
  · rw [BitVec.toNat_sub, BitVec.toNat_setWidth]
    simp only [BitVec.toNat_ofNat]
    omega
  · rw [BitVec.toNat_setWidth]
    omega

/-- `encT` as a number (R114). -/
theorem encT_toNat (s : BitVec 1) (I : BitVec 8) (F : BitVec 7) :
    (encT s I F).toNat = s.toNat * 4096 + I.toNat * 16 + (decimalBin F).toNat := by
  have h : (encT s I F).toNat = (0#3 ++ s ++ I ++ decimalBin F).toNat := rfl
  rw [h, toNat_append, toNat_append, toNat_append]
  simp
  ring

/-- A field's mask, bit by bit. -/
theorem getLsbD_fieldMask (f : CfgField) (k : Nat) : (fieldMask f).getLsbD k =
    (decide (fieldShift f ≤ k) && decide (k < fieldShift f + fieldWidth f)) := by
  by_cases hk : k < 16
  · have h : ∀ k : Fin 16, (fieldMask f).getLsbD k =
        (decide (fieldShift f ≤ (k : Nat)) && decide ((k : Nat) < fieldShift f + fieldWidth f)) := by
      cases f <;> decide
    exact h ⟨k, hk⟩
  · rw [BitVec.getLsbD_of_ge _ _ (by omega)]
    have : fieldShift f + fieldWidth f ≤ 16 := by cases f <;> decide
    simp
    omega

/-- A value that fits `n` bits has no bit at `n` or above. -/
theorem getLsbD_of_fits {v : Word} {n k : Nat} (h : v.toNat < 2 ^ n) (hk : n ≤ k) : v.getLsbD k = false := by
  rw [BitVec.getLsbD, Nat.testBit_lt_two_pow (lt_of_lt_of_le h (Nat.pow_le_pow_right (by omega) hk))]

/-- The insert, bit by bit (R117). -/
theorem getLsbD_cfgPut (f : CfgField) (W : Word) {v : Word} (hv : v.toNat < 2 ^ fieldWidth f) {k : Nat} (hk : k < 16) :
    (cfgPut f W v).getLsbD k =
      if fieldShift f ≤ k ∧ k < fieldShift f + fieldWidth f then v.getLsbD (k - fieldShift f) else W.getLsbD k := by
  unfold cfgPut
  simp only [BitVec.getLsbD_or, BitVec.getLsbD_and, BitVec.getLsbD_not, BitVec.getLsbD_shiftLeft, getLsbD_fieldMask]
  split
  · next h => simp [h, hk, Nat.not_lt.mpr h.1]
  · next h =>
    by_cases h1 : fieldShift f ≤ k
    · have : v.getLsbD (k - fieldShift f) = false := getLsbD_of_fits hv (by omega)
      simp [this, hk]
      intro
      omega
    · simp [h1, hk]

/-- The extract, bit by bit (R117). -/
theorem getLsbD_cfgGet (f : CfgField) (W : Word) (k : Nat) :
    (cfgGet f W).getLsbD k = (decide (k < fieldWidth f) && W.getLsbD (fieldShift f + k)) := by
  unfold cfgGet
  simp only [BitVec.getLsbD_ushiftRight, BitVec.getLsbD_and, getLsbD_fieldMask]
  by_cases h : k < fieldWidth f <;> simp [h]

/-- Different fields share no bit (R26). -/
theorem fields_disjoint {f g : CfgField} (h : f ≠ g) :
    fieldShift f + fieldWidth f ≤ fieldShift g ∨ fieldShift g + fieldWidth g ≤ fieldShift f := by
  cases f <;> cases g <;> first | exact absurd rfl h | decide

/-- Every field lies below bit 11 (R27). -/
theorem field_below (f : CfgField) : fieldShift f + fieldWidth f ≤ 11 := by cases f <;> decide

end Sys2Proof.Machine
end

