-- ==== Sys2Proof/Laws/Exec.lean ====
section
/-! SUPPORT. Everything a command can do to the state is a chain of the shared operations: one lemma per sequence, and
`exec_closed` for all 28 commands. A frame or an invariant is then a claim about the shared operations alone. -/

namespace Sys2Proof

open Sys2Proof.Machine

/-- The registers of the sensor a command writes (R57). -/
def Instr.writtenRegs : Instr → List Byte
  | .setResolution _ => [Config.regResolution]
  | .setWindow _ _ => [Config.regTUpper, Config.regTLower]
  | .setCrit _ => [Config.regTCrit]
  | .clearInt | .setPower _ | .setHyst _ | .setLock _ | .setAlertEn _ | .setAlertPol _ | .setAlertMode _
  | .setAlertResp _ => [Config.regConfig]
  | .decTemp _ | .encThr _ | .decFlags _ | .cfgGet _ _ | .cfgPut _ _ | .setAddr _ | .init | .getTemp | .getFlags
  | .getPower | .getHyst | .getLock | .getAlertEn | .getAlertPol | .getAlertMode | .getAlertResp
  | .getIntClear => []

namespace Machine

/-- A transitive relation that holds across each shared operation, writes being to the registers `W` only, the
one-byte write to RESOLUTION and every other write two bytes (R55). -/
structure Closed (W : List Byte) (R : State → State → Prop) : Prop where
  trans : ∀ {a b c}, R a b → R b c → R a c
  raise : ∀ st s, R s (s.finish st 0)
  done : ∀ v s, R s (s.finish .ok v)
  enter : ∀ ph s, R s (s.enter ph)
  issueRead : ∀ ph reg s, R s (s.issue ph (s.readReq reg))
  issueWrite : ∀ ph reg v s, reg ∈ W → reg ≠ Config.regResolution → R s (s.issue ph (s.writeReq reg v))
  issueByte : ∀ ph v s, Config.regResolution ∈ W → R s (s.issue ph (s.writeByteReq Config.regResolution v))
  servedRead : ∀ reg s, R s (s.served (s.readReq reg))
  servedWrite : ∀ reg v s, reg ∈ W → reg ≠ Config.regResolution → R s (s.served (s.writeReq reg v))
  servedByte : ∀ v s, Config.regResolution ∈ W → R s (s.served (s.writeByteReq Config.regResolution v))
  cfgBuf : ∀ w s, R s (s.setCfgBuf w)
  rdBuf : ∀ w s, R s (s.setRdBuf w)

namespace Closed

variable {W : List Byte} {R : State → State → Prop} (hR : Closed W R) {s t : State}
include hR

theorem awaitRead {k : Word → State → Result} {reg : Byte}
    (h : Machine.awaitRead (s.readReq reg) k s = .next t)
    (hk : ∀ w {t}, k w (s.served (s.readReq reg)) = .next t → R (s.served (s.readReq reg)) t) : R s t := by
  obtain ⟨-, rfl⟩ | ⟨bs, -, h⟩ | rfl := awaitRead_cases h
  · exact hR.servedRead _ _
  · exact hR.trans (hR.servedRead _ _) (hk _ h)
  · exact hR.trans (hR.servedRead _ _) (hR.raise _ _)

theorem awaitWrite {k : State → Result} {reg : Byte} {v : Word} (hW : reg ∈ W)
    (hne : reg ≠ Config.regResolution)
    (h : Machine.awaitWrite (s.writeReq reg v) k s = .next t)
    (hk : ∀ {t}, k (s.served (s.writeReq reg v)) = .next t → R (s.served (s.writeReq reg v)) t) : R s t := by
  obtain ⟨-, rfl⟩ | ⟨-, h⟩ | rfl := awaitWrite_cases h
  · exact hR.servedWrite _ _ _ hW hne
  · exact hR.trans (hR.servedWrite _ _ _ hW hne) (hk h)
  · exact hR.trans (hR.servedWrite _ _ _ hW hne) (hR.raise _ _)

theorem done_next {v : Word} (h : Machine.done v s = .next t) : R s t := by
  rw [done_eq_next] at h; exact h ▸ hR.done v s

theorem raise_next {st : Status} (h : Machine.raise st s = .next t) : R s t := by
  rw [raise_eq_next] at h; exact h ▸ hR.raise st s

theorem raise_checked {st : Status} (h : Machine.raise st (s.enter .check) = .next t) : R s t :=
  hR.trans (hR.enter _ _) (hR.raise_next h)

theorem checkOnly {k : State → Result} (h : Machine.checkOnly k s = .next t)
    (hk : ∀ {u t}, k u = .next t → R u t) : R s t :=
  hR.trans (hR.enter _ _) (hk (checkOnly_cases h))

section Sequencer

theorem rmwWrite (hW : Config.regConfig ∈ W) {f : CfgField} {a : Word} (h : Machine.rmwWrite f a s = .next t) : R s t :=
  hR.awaitWrite hW (by decide) h hR.done_next

theorem rmwCheck (hW : Config.regConfig ∈ W) {f : CfgField} {g : Bool} {a : Word}
    (h : Machine.rmwCheck f g a s = .next t) : R s t := by
  unfold Machine.rmwCheck at h
  split at h
  · exact hR.raise_checked h
  · split at h
    · exact hR.raise_checked h
    · exact hR.trans (hR.issueWrite _ _ _ _ hW (by decide)) (hR.rmwWrite hW h)

theorem rmwRead (hW : Config.regConfig ∈ W) {f : CfgField} {g : Bool} {a : Word}
    (h : Machine.rmwRead f g a s = .next t) : R s t :=
  hR.awaitRead h (fun _ _ h => hR.trans (hR.cfgBuf _ _) (hR.rmwCheck hW h))

theorem rmw (hW : Config.regConfig ∈ W) {f : CfgField} {g : Bool} {a : Word}
    (h : Machine.rmw f g a s = .next t) : R s t := by
  unfold Machine.rmw at h
  split at h
  · exact hR.trans (hR.issueRead _ _ _) (hR.rmwRead hW h)
  · exact hR.rmwRead hW h
  · exact hR.rmwCheck hW h
  · exact hR.rmwWrite hW h
  all_goals cases h

theorem clearIntWrite (hW : Config.regConfig ∈ W) (h : Machine.clearIntWrite s = .next t) : R s t :=
  hR.awaitWrite hW (by decide) h hR.done_next

theorem clearIntRead (hW : Config.regConfig ∈ W) (h : Machine.clearIntRead s = .next t) : R s t :=
  hR.awaitRead h (fun _ _ h => hR.trans (hR.cfgBuf _ _)
    (hR.trans (hR.issueWrite _ _ _ _ hW (by decide)) (hR.clearIntWrite hW h)))

theorem clearInt (hW : Config.regConfig ∈ W) (h : execClearInt s = .next t) : R s t := by
  unfold execClearInt at h
  split at h
  · exact hR.trans (hR.issueRead _ _ _) (hR.clearIntRead hW h)
  · exact hR.clearIntRead hW h
  · exact hR.clearIntWrite hW h
  all_goals cases h

theorem getCheck {f : CfgField} (h : Machine.getCheck f s = .next t) : R s t :=
  hR.trans (hR.enter _ _) (hR.done_next h)

theorem getRead {f : CfgField} (h : Machine.getRead f s = .next t) : R s t :=
  hR.awaitRead h (fun _ _ h => hR.trans (hR.cfgBuf _ _) (hR.getCheck h))

theorem getField {f : CfgField} (h : Machine.getField f s = .next t) : R s t := by
  unfold Machine.getField at h
  split at h
  · exact hR.trans (hR.issueRead _ _ _) (hR.getRead h)
  · exact hR.getRead h
  · exact hR.getCheck h
  all_goals cases h

theorem initRead2 (h : Machine.initRead2 s = .next t) : R s t := by
  refine hR.awaitRead h (fun w t h => ?_)
  split at h
  · exact hR.trans (hR.rdBuf _ _) (hR.done_next h)
  · exact hR.trans (hR.rdBuf _ _) (hR.raise_next h)

theorem initRead1 (h : Machine.initRead1 s = .next t) : R s t := by
  refine hR.awaitRead h (fun w t h => ?_)
  split at h
  · exact hR.trans (hR.rdBuf _ _) (hR.trans (hR.issueRead _ _ _) (hR.initRead2 h))
  · exact hR.trans (hR.rdBuf _ _) (hR.raise_next h)

theorem init (h : execInit s = .next t) : R s t := by
  unfold execInit at h
  split at h
  · exact hR.trans (hR.issueRead _ _ _) (hR.initRead1 h)
  · exact hR.initRead1 h
  · exact hR.initRead2 h
  all_goals cases h

theorem tempRead {g : Word → Word} (h : Machine.tempRead g s = .next t) : R s t :=
  hR.awaitRead h (fun _ _ h => hR.trans (hR.rdBuf _ _) (hR.done_next h))

theorem readTemperature {g : Word → Word} (h : Machine.readTemperature g s = .next t) : R s t := by
  unfold Machine.readTemperature at h
  split at h
  · exact hR.trans (hR.issueRead _ _ _) (hR.tempRead h)
  · exact hR.tempRead h
  all_goals cases h

theorem resWrite (hW : Config.regResolution ∈ W) {a : Word} (h : Machine.resWrite a s = .next t) : R s t := by
  obtain ⟨-, rfl⟩ | ⟨-, h⟩ | rfl := awaitWrite_cases h
  · exact hR.servedByte _ _ hW
  · exact hR.trans (hR.servedByte _ _ hW) (hR.done_next h)
  · exact hR.trans (hR.servedByte _ _ hW) (hR.raise _ _)

theorem resCheck (hW : Config.regResolution ∈ W) {a : Word} (h : Machine.resCheck a s = .next t) : R s t := by
  unfold Machine.resCheck at h
  split at h
  · exact hR.trans (hR.issueByte _ _ _ hW) (hR.resWrite hW h)
  · exact hR.raise_checked h

theorem setResolution (hW : Config.regResolution ∈ W) {a : Word} (h : execSetResolution a s = .next t) : R s t := by
  unfold execSetResolution at h
  split at h
  · exact hR.resCheck hW h
  · exact hR.resCheck hW h
  · exact hR.resWrite hW h
  all_goals cases h

variable (hU : Config.regTUpper ∈ W) (hL : Config.regTLower ∈ W)
include hL

theorem windowWrite2 {l : Word} (h : Machine.windowWrite2 l s = .next t) : R s t :=
  hR.awaitWrite hL (by decide) h hR.done_next

include hU

theorem windowWrite1 {u l : Word} (h : Machine.windowWrite1 u l s = .next t) : R s t :=
  hR.awaitWrite hU (by decide) h (fun h => hR.trans (hR.issueWrite _ _ _ _ hL (by decide)) (hR.windowWrite2 hL h))

theorem windowCheck {u l : Word} (h : Machine.windowCheck u l s = .next t) : R s t := by
  unfold Machine.windowCheck at h
  split at h
  · exact hR.raise_checked h
  · split at h
    · exact hR.raise_checked h
    · split at h
      · exact hR.raise_checked h
      · exact hR.trans (hR.issueWrite _ _ _ _ hU (by decide)) (hR.windowWrite1 hU hL h)

theorem windowRead {u l : Word} (h : Machine.windowRead u l s = .next t) : R s t :=
  hR.awaitRead h (fun _ _ h => hR.trans (hR.cfgBuf _ _) (hR.windowCheck hU hL h))

theorem setWindow {u l : Word} (h : execSetWindow u l s = .next t) : R s t := by
  unfold execSetWindow at h
  split at h
  · exact hR.trans (hR.issueRead _ _ _) (hR.windowRead hU hL h)
  · exact hR.windowRead hU hL h
  · exact hR.windowCheck hU hL h
  · exact hR.windowWrite1 hU hL h
  · exact hR.windowWrite2 hL h
  all_goals cases h

omit hU hL
variable (hC : Config.regTCrit ∈ W)
include hC

theorem critWrite {a : Word} (h : Machine.critWrite a s = .next t) : R s t :=
  hR.awaitWrite hC (by decide) h hR.done_next

theorem critCheck {a : Word} (h : Machine.critCheck a s = .next t) : R s t := by
  unfold Machine.critCheck at h
  split at h
  · exact hR.raise_checked h
  · split at h
    · exact hR.raise_checked h
    · exact hR.trans (hR.issueWrite _ _ _ _ hC (by decide)) (hR.critWrite hC h)

theorem critRead {a : Word} (h : Machine.critRead a s = .next t) : R s t :=
  hR.awaitRead h (fun _ _ h => hR.trans (hR.cfgBuf _ _) (hR.critCheck hC h))

theorem setCrit {a : Word} (h : execSetCrit a s = .next t) : R s t := by
  unfold execSetCrit at h
  split at h
  · exact hR.trans (hR.issueRead _ _ _) (hR.critRead hC h)
  · exact hR.critRead hC h
  · exact hR.critCheck hC h
  · exact hR.critWrite hC h
  all_goals cases h

end Sequencer

end Closed

/-- A field setter runs `rmw` on its field (R145 to R151). -/
theorem exec_setter {i : Instr} {f : CfgField} {g : Bool} {a : Word} (h : i.setter? = some (f, g, a)) (s : State) :
    exec i s = rmw f g a s := by
  cases i <;> simp only [Instr.setter?, Option.some.injEq, Prod.mk.injEq, reduceCtorEq] at h <;>
    (obtain ⟨rfl, rfl, rfl⟩ := h; rfl)

/-- A field getter runs `get` on its field (R153). -/
theorem exec_getter {i : Instr} {f : CfgField} (h : i.getter? = some f) (s : State) : exec i s = getField f s := by
  cases i <;> simp only [Instr.getter?, Option.some.injEq, reduceCtorEq] at h <;> (subst h; rfl)

/-- The lock guard's test is `CFG[7:6] != 0` (R141). -/
theorem locked_iff (cfg : Word) : locked cfg = true ↔ cfg.extractLsb' 6 2 ≠ 0 := by
  have h : (cfgGet .lockState cfg).toNat = (cfg.extractLsb' 6 2).toNat := by
    have hm : (fieldMask .lockState).toNat = (2 ^ 2 - 1) <<< 6 := by decide
    rw [cfgGet, BitVec.toNat_ushiftRight, BitVec.toNat_and, hm, BitVec.extractLsb'_toNat,
      show fieldShift .lockState = 6 from rfl, Nat.shiftRight_and_distrib, Nat.shiftLeft_shiftRight,
      Nat.and_two_pow_sub_one_eq_mod]
  simp only [locked, bne_iff_ne, ne_eq, ← BitVec.toNat_inj, h]
  rfl

/-! ### The tests of a sequence, case by case -/

theorem locked_eq_false {cfg : Word} (h : cfg.extractLsb' 6 2 = 0) : locked cfg = false := by
  by_contra hl
  exact (locked_iff cfg).1 (by simpa using hl) h

theorem topValid_iff (a : Word) : topValid a = true ↔ (a.extractLsb' 0 7).toNat ≤ 99 := by
  rw [topValid, decide_eq_true_eq, topFrac]

theorem enumValid_iff (f : CfgField) (v : Word) : enumValid f v = true ↔ v.toNat < 2 ^ fieldWidth f := by
  rw [enumValid, decide_eq_true_eq]

theorem resValid_iff (v : Word) : resValid v = true ↔ v.toNat ≤ 3 := by
  rw [resValid, decide_eq_true_eq, Config.maxResCode]

theorem addrValid_iff (v : Word) : addrValid v = true ↔ v.toNat ≤ 0x7F := by
  rw [addrValid, decide_eq_true_eq]

theorem gapOk_iff (u l : Word) : gapOk u l = true ↔ 200 ≤ topVal u - topVal l := by
  rw [gapOk, decide_eq_true_eq, Config.minGap]

/-- The field of a field's id (R90). -/
theorem fieldOfId_idOfField (f : CfgField) : fieldOfId (idOfField f) = some f := by cases f <;> rfl

theorem fieldOfId_none {n : Nat} (h : 7 < n) : fieldOfId n = none := by
  unfold fieldOfId
  split <;> first | rfl | omega

section Checks

variable {f : CfgField} {g : Bool} {a u l : Word} {s : State}

theorem rmwCheck_locked (hg : g = true) (h : locked s.cfgBuf = true) :
    rmwCheck f g a s = raise .registerLocked (s.enter .check) := by
  rw [rmwCheck, if_pos (by rw [hg, h]; rfl)]

theorem rmwCheck_invalid (hg : g = true → locked s.cfgBuf = false) (h : ¬ enumValid f a = true) :
    rmwCheck f g a s = raise .invalidParameter (s.enter .check) := by
  rw [rmwCheck, if_neg (by cases g <;> simp_all), if_pos (by simpa using h)]

theorem rmwCheck_valid (hg : g = true → locked s.cfgBuf = false) (h : enumValid f a = true) :
    rmwCheck f g a s = rmwWrite f a (s.issue .wr1 (s.writeReq Config.regConfig (cfgPut f s.cfgBuf a))) := by
  rw [rmwCheck, if_neg (by cases g <;> simp_all), if_neg (by simpa using h)]

theorem resCheck_invalid (h : ¬ resValid a = true) : resCheck a s = raise .invalidParameter (s.enter .check) := by
  rw [resCheck, if_neg h]

theorem resCheck_valid (h : resValid a = true) :
    resCheck a s = resWrite a (s.issue .wr1 (s.writeByteReq Config.regResolution a)) := by
  rw [resCheck, if_pos h]

theorem critCheck_locked (h : locked s.cfgBuf = true) : critCheck a s = raise .registerLocked (s.enter .check) := by
  rw [critCheck, if_pos h]

theorem critCheck_invalid (hl : locked s.cfgBuf = false) (h : ¬ topValid a = true) :
    critCheck a s = raise .invalidParameter (s.enter .check) := by
  rw [critCheck, if_neg (by simp [hl]), if_pos (by simpa using h)]

theorem critCheck_valid (hl : locked s.cfgBuf = false) (h : topValid a = true) :
    critCheck a s = critWrite a (s.issue .wr1 (s.writeReq Config.regTCrit (encTop a))) := by
  rw [critCheck, if_neg (by simp [hl]), if_neg (by simp [h])]

theorem windowCheck_locked (h : locked s.cfgBuf = true) :
    windowCheck u l s = raise .registerLocked (s.enter .check) := by
  rw [windowCheck, if_pos h]

theorem windowCheck_invalid (hl : locked s.cfgBuf = false) (h : ¬ (topValid u = true ∧ topValid l = true)) :
    windowCheck u l s = raise .invalidParameter (s.enter .check) := by
  rw [windowCheck, if_neg (by simp [hl]), if_pos (by simpa [imp_iff_not_or] using h)]

theorem windowCheck_gap (hl : locked s.cfgBuf = false) (h : topValid u = true ∧ topValid l = true)
    (hg : ¬ gapOk u l = true) : windowCheck u l s = raise .thresholdRangeError (s.enter .check) := by
  rw [windowCheck, if_neg (by simp [hl]), if_neg (by simp [h]), if_pos (by simpa using hg)]

theorem windowCheck_valid (hl : locked s.cfgBuf = false) (h : topValid u = true ∧ topValid l = true)
    (hg : gapOk u l = true) :
    windowCheck u l s = windowWrite1 u l (s.issue .wr1 (s.writeReq Config.regTUpper (encTop u))) := by
  rw [windowCheck, if_neg (by simp [hl]), if_neg (by simp [h]), if_neg (by simp [hg])]

end Checks

/-- What holds across every shared operation a command uses holds across the command. -/
theorem exec_closed {R : State → State → Prop} {i : Instr} {s t : State} (hR : Closed i.writtenRegs R)
    (hA : ∀ a b s, i = .setAddr b → R s (s.setDevAddr a)) (h : exec i s = .next t) : R s t := by
  have pure_rel : ∀ {p : Bool} {v : Word} {u t : State},
      (if p then done v u else raise .invalidParameter u) = .next t → R u t := by
    intro p v u t h
    split at h
    · exact hR.done_next h
    · exact hR.raise_next h
  cases i with
  | decTemp a => exact hR.checkOnly h hR.done_next
  | encThr a =>
    rw [exec, execEncThr] at h
    exact hR.checkOnly h pure_rel
  | decFlags a => exact hR.checkOnly h hR.done_next
  | cfgGet a b =>
    rw [exec, execCfgGet] at h
    refine hR.checkOnly h (fun h => ?_)
    split at h
    · exact hR.done_next h
    · exact hR.raise_next h
  | cfgPut a b =>
    rw [exec, execCfgPut] at h
    refine hR.checkOnly h (fun h => ?_)
    split at h
    · exact pure_rel h
    · exact hR.raise_next h
  | init => exact hR.init h
  | getTemp => exact hR.readTemperature h
  | getFlags => exact hR.readTemperature h
  | setResolution a => exact hR.setResolution (by simp [Instr.writtenRegs]) h
  | setWindow u l => exact hR.setWindow (by simp [Instr.writtenRegs]) (by simp [Instr.writtenRegs]) h
  | setCrit a => exact hR.setCrit (by simp [Instr.writtenRegs]) h
  | clearInt => exact hR.clearInt (by simp [Instr.writtenRegs]) h
  | setAddr a =>
    rw [exec, execSetAddr] at h
    refine hR.checkOnly h (fun h => ?_)
    split at h
    · exact hR.trans (hA _ a _ rfl) (hR.done_next h)
    · exact hR.raise_next h
  | setPower a => exact hR.rmw (by simp [Instr.writtenRegs]) h
  | setHyst a => exact hR.rmw (by simp [Instr.writtenRegs]) h
  | setLock a => exact hR.rmw (by simp [Instr.writtenRegs]) h
  | setAlertEn a => exact hR.rmw (by simp [Instr.writtenRegs]) h
  | setAlertPol a => exact hR.rmw (by simp [Instr.writtenRegs]) h
  | setAlertMode a => exact hR.rmw (by simp [Instr.writtenRegs]) h
  | setAlertResp a => exact hR.rmw (by simp [Instr.writtenRegs]) h
  | getPower => exact hR.getField h
  | getHyst => exact hR.getField h
  | getLock => exact hR.getField h
  | getAlertEn => exact hR.getField h
  | getAlertPol => exact hR.getField h
  | getAlertMode => exact hR.getField h
  | getAlertResp => exact hR.getField h
  | getIntClear => exact hR.getField h

end Machine

end Sys2Proof
end

