-- ==== Sys2Proof/Laws/Cases.lean ====
section
/-! SUPPORT. Everything each sequence can do, from each phase it waits in: the complete list of the states it can answer,
written out. -/

namespace Sys2Proof.Machine

/-- What a step that waits for the answer to an operation's last write can answer: still waiting, done, BusError. -/
def LastWrite (req : BusRequest) (s t : State) : Prop :=
  (s.answer req = none ∧ t = s.served req) ∨ (s.answer req = some .ack ∧ t = (s.served req).finish .ok 0) ∨
  t = (s.served req).finish .busError 0

theorem lastWrite_of {req : BusRequest} {s t : State} (h : awaitWrite req (done 0) s = .next t) : LastWrite req s t := by
  obtain h | ⟨ha, h⟩ | h := awaitWrite_cases h
  · exact .inl h
  · exact .inr (.inl ⟨ha, ((done_eq_next 0).1 h).symm⟩)
  · exact .inr (.inr h)

/-- Everything the tests and the write of `rmw` can do. -/
def RmwAfterCheck (f : CfgField) (g : Bool) (a : Word) (s t : State) : Prop :=
  (g = true ∧ locked s.cfgBuf = true ∧ t = (s.enter .check).finish .registerLocked 0) ∨
  ((g = true → locked s.cfgBuf = false) ∧ ¬ enumValid f a = true ∧ t = (s.enter .check).finish .invalidParameter 0) ∨
  ((g = true → locked s.cfgBuf = false) ∧ enumValid f a = true ∧
    LastWrite (s.writeReq Config.regConfig (cfgPut f s.cfgBuf a))
      (s.issue .wr1 (s.writeReq Config.regConfig (cfgPut f s.cfgBuf a))) t)

theorem rmwCheck_cases {f : CfgField} {g : Bool} {a : Word} {s t : State} (h : rmwCheck f g a s = .next t) :
    RmwAfterCheck f g a s t := by
  by_cases hl : g = true ∧ locked s.cfgBuf = true
  · rw [rmwCheck_locked hl.1 hl.2, raise_eq_next] at h
    exact .inl ⟨hl.1, hl.2, h.symm⟩
  · have hg : g = true → locked s.cfgBuf = false := fun hg => by simpa [hg] using hl
    by_cases hv : enumValid f a = true
    · rw [rmwCheck_valid hg hv] at h
      exact .inr (.inr ⟨hg, hv, lastWrite_of h⟩)
    · rw [rmwCheck_invalid hg hv, raise_eq_next] at h
      exact .inr (.inl ⟨hg, hv, h.symm⟩)

/-- Everything a wait for a read can do, when what follows the read can do `K`. -/
def AfterReadWait (req : BusRequest) (K : Word → State → State → Prop) (s t : State) : Prop :=
  (s.answer req = none ∧ t = s.served req) ∨ t = (s.served req).finish .busError 0 ∨ ∃ w, K w (s.served req) t

theorem afterReadWait_of {req : BusRequest} {K : Word → State → State → Prop} {k : Word → State → Result} {s t : State}
    (h : awaitRead req k s = .next t) (hk : ∀ w u t, k w u = .next t → K w u t) : AfterReadWait req K s t := by
  obtain h | ⟨bs, -, h⟩ | h := awaitRead_cases h
  · exact .inl h
  · exact .inr (.inr ⟨_, hk _ _ _ h⟩)
  · exact .inr (.inl h)

theorem rmwRead_cases {f : CfgField} {g : Bool} {a : Word} {s t : State} (h : rmwRead f g a s = .next t) :
    AfterReadWait (s.readReq Config.regConfig) (fun w u t => RmwAfterCheck f g a (u.setCfgBuf w) t) s t :=
  afterReadWait_of h fun _ _ _ h => rmwCheck_cases h

theorem clearIntRead_cases {s t : State} (h : clearIntRead s = .next t) :
    AfterReadWait (s.readReq Config.regConfig) (fun w u t =>
      LastWrite (u.writeReq Config.regConfig (clearIntWord w))
        ((u.setCfgBuf w).issue .wr1 (u.writeReq Config.regConfig (clearIntWord w))) t) s t :=
  afterReadWait_of h fun _ _ _ h => lastWrite_of h

theorem getRead_cases {f : CfgField} {s t : State} (h : getRead f s = .next t) :
    AfterReadWait (s.readReq Config.regConfig) (fun w u t =>
      t = ((u.setCfgBuf w).enter .check).finish .ok (cfgGet f w)) s t :=
  afterReadWait_of h fun _ _ _ h => ((done_eq_next _).1 h).symm

theorem tempRead_cases {g : Word → Word} {s t : State} (h : tempRead g s = .next t) :
    AfterReadWait (s.readReq Config.regTemperature) (fun w u t => t = (u.setRdBuf w).finish .ok (g w)) s t :=
  afterReadWait_of h fun _ _ _ h => ((done_eq_next _).1 h).symm

theorem initRead2_cases {s t : State} (h : initRead2 s = .next t) :
    AfterReadWait (s.readReq Config.regManufacturerId) (fun w u t =>
      t = (u.setRdBuf w).finish .ok 1 ∨ t = (u.setRdBuf w).finish .identityMismatch 0) s t := by
  refine afterReadWait_of h fun w u t h => ?_
  split at h
  · exact .inl ((done_eq_next _).1 h).symm
  · exact .inr ((raise_eq_next _).1 h).symm

theorem initRead1_cases {s t : State} (h : initRead1 s = .next t) :
    AfterReadWait (s.readReq Config.regDeviceId) (fun w u t =>
      t = (u.setRdBuf w).finish .identityMismatch 0 ∨
      initRead2 ((u.setRdBuf w).issue .rdId2 (u.readReq Config.regManufacturerId)) = .next t) s t := by
  refine afterReadWait_of h fun w u t h => ?_
  split at h
  · exact .inr h
  · exact .inl ((raise_eq_next _).1 h).symm

theorem resCheck_cases {a : Word} {s t : State} (h : resCheck a s = .next t) :
    (¬ resValid a = true ∧ t = (s.enter .check).finish .invalidParameter 0) ∨
    (resValid a = true ∧ LastWrite (s.writeByteReq Config.regResolution a)
      (s.issue .wr1 (s.writeByteReq Config.regResolution a)) t) := by
  by_cases hv : resValid a = true
  · rw [resCheck_valid hv] at h
    exact .inr ⟨hv, lastWrite_of h⟩
  · rw [resCheck_invalid hv, raise_eq_next] at h
    exact .inl ⟨hv, h.symm⟩

theorem critCheck_cases {a : Word} {s t : State} (h : critCheck a s = .next t) :
    (locked s.cfgBuf = true ∧ t = (s.enter .check).finish .registerLocked 0) ∨
    (locked s.cfgBuf = false ∧ ¬ topValid a = true ∧ t = (s.enter .check).finish .invalidParameter 0) ∨
    (locked s.cfgBuf = false ∧ topValid a = true ∧ LastWrite (s.writeReq Config.regTCrit (encTop a))
      (s.issue .wr1 (s.writeReq Config.regTCrit (encTop a))) t) := by
  cases hl : locked s.cfgBuf
  · by_cases hv : topValid a = true
    · rw [critCheck_valid hl hv] at h
      exact .inr (.inr ⟨rfl, hv, lastWrite_of h⟩)
    · rw [critCheck_invalid hl hv, raise_eq_next] at h
      exact .inr (.inl ⟨rfl, hv, h.symm⟩)
  · rw [critCheck_locked hl, raise_eq_next] at h
    exact .inl ⟨rfl, h.symm⟩

theorem critRead_cases {a : Word} {s t : State} (h : critRead a s = .next t) :
    AfterReadWait (s.readReq Config.regConfig) (fun w u t => critCheck a (u.setCfgBuf w) = .next t) s t :=
  afterReadWait_of h fun _ _ _ h => h

/-- Everything the wait for SET_WINDOW's first write can do. -/
theorem windowWrite1_cases {u l : Word} {s t : State} (h : windowWrite1 u l s = .next t) :
    (s.answer (s.writeReq Config.regTUpper (encTop u)) = none ∧ t = s.served (s.writeReq Config.regTUpper (encTop u))) ∨
    t = (s.served (s.writeReq Config.regTUpper (encTop u))).finish .busError 0 ∨
    LastWrite (s.writeReq Config.regTLower (encTop l))
      ((s.served (s.writeReq Config.regTUpper (encTop u))).issue .wr2 (s.writeReq Config.regTLower (encTop l))) t := by
  obtain h | ⟨-, h⟩ | h := awaitWrite_cases h
  · exact .inl h
  · exact .inr (.inr (lastWrite_of h))
  · exact .inr (.inl h)

theorem windowCheck_cases {u l : Word} {s t : State} (h : windowCheck u l s = .next t) :
    (locked s.cfgBuf = true ∧ t = (s.enter .check).finish .registerLocked 0) ∨
    (locked s.cfgBuf = false ∧ t = (s.enter .check).finish .invalidParameter 0) ∨
    (locked s.cfgBuf = false ∧ t = (s.enter .check).finish .thresholdRangeError 0) ∨
    (locked s.cfgBuf = false ∧ (topValid u = true ∧ topValid l = true) ∧ gapOk u l = true ∧
      windowWrite1 u l (s.issue .wr1 (s.writeReq Config.regTUpper (encTop u))) = .next t) := by
  cases hl : locked s.cfgBuf
  · by_cases hv : topValid u = true ∧ topValid l = true
    · by_cases hg : gapOk u l = true
      · rw [windowCheck_valid hl hv hg] at h
        exact .inr (.inr (.inr ⟨rfl, hv, hg, h⟩))
      · rw [windowCheck_gap hl hv hg, raise_eq_next] at h
        exact .inr (.inr (.inl ⟨rfl, h.symm⟩))
    · rw [windowCheck_invalid hl hv, raise_eq_next] at h
      exact .inr (.inl ⟨rfl, h.symm⟩)
  · rw [windowCheck_locked hl, raise_eq_next] at h
    exact .inl ⟨rfl, h.symm⟩

theorem windowRead_cases {u l : Word} {s t : State} (h : windowRead u l s = .next t) :
    AfterReadWait (s.readReq Config.regConfig) (fun w x t => windowCheck u l (x.setCfgBuf w) = .next t) s t :=
  afterReadWait_of h fun _ _ _ h => h

end Sys2Proof.Machine
end

