-- ==== Sys2Proof/Laws/Issued.lean ====
section
/-! SUPPORT. What each sequence has issued, and where it stands, when it has ended or waits: one lemma per sequence, and
`exec_issued` for all 28 commands. -/

namespace Sys2Proof.Machine

/-- A list of two-byte reads. -/
def ReadsOnly (l : List BusRequest) : Prop := ∀ r ∈ l, ∃ A reg, r = BusRequest.read A reg 2

/-- The state `t` has issued, after `T`, a beginning of the list of `i` at the bus address `A`: the whole list if `i` has
ended with OK, reads only if it has ended in another error than BusError; or `i` waits for the answer to the last of them,
a write only after its tests. -/
def IssuedSoFar (i : Instr) (T : List BusRequest) (A : Addr7) (t : State) : Prop :=
  ∃ k, t.trace = T ++ (i.transactions A t.cfgBuf).take k ∧ k ≤ (i.transactions A t.cfgBuf).length ∧
   ((t.phase = .idle ∧ ((t.status = 0 ∧ k = (i.transactions A t.cfgBuf).length) ∨ t.status = 4 ∨ (t.status ≠ 0 ∧
       t.status ≠ 4 ∧ ReadsOnly ((i.transactions A t.cfgBuf).take k))))
   ∨ (∃ k', k = k' + 1 ∧ i.busPhases[k']? = some t.phase ∧ t.devAddr = A ∧ t.phase ≠ .idle ∧
       (t.phase.isWrite = true → t.mayWrite i)))

theorem transactions_setter {i : Instr} {f g a} (hi : i.setter? = some (f, g, a))
    (A cfg) : i.transactions A cfg = [.read A 0x01 2, .write A 0x01 (bytesOfWord (cfgPut f cfg a))] := by
  cases i <;> simp only [Instr.setter?, Option.some.injEq, Prod.mk.injEq, reduceCtorEq] at hi <;>
    (obtain ⟨rfl, rfl, rfl⟩ := hi; rfl)

theorem transactions_getter {i : Instr} {f} (hi : i.getter? = some f)
    (A cfg) : i.transactions A cfg = [.read A 0x01 2] := by
  cases i <;> simp only [Instr.getter?, reduceCtorEq] at hi <;> rfl

theorem setter_facts {i : Instr} {f g a} (hi : i.setter? = some (f, g, a)) : i.busPhases = [.rdCfg, .wr1] ∧
    (i.gated = g) ∧ (i.wellFormed = enumValid f a) ∧ ∀ u l, i ≠ .setWindow u l := by
  cases i <;> simp only [Instr.setter?, Option.some.injEq, Prod.mk.injEq, reduceCtorEq] at hi <;>
    (obtain ⟨rfl, rfl, rfl⟩ := hi; refine ⟨rfl, rfl, rfl, by intros; simp⟩)

theorem busPhases_getter {i : Instr} {f} (hi : i.getter? = some f) : i.busPhases = [.rdCfg] := by
  cases i <;> simp only [Instr.getter?, reduceCtorEq] at hi <;> rfl

theorem issued_rmwRead {i : Instr} {f g a} (hi : i.setter? = some (f, g, a)) {s t : State} {T}
    (hp : s.phase = .rdCfg) (hT : s.trace = T ++ [s.readReq 0x01])
    (h : rmwRead f g a s = .next t) : IssuedSoFar i T s.devAddr t := by
  obtain ⟨p1, p3, p4, p5⟩ := setter_facts hi
  have p2 : i.busPhases[1]? = some .wr1 := by rw [p1]; rfl
  simp only [IssuedSoFar, transactions_setter hi]
  obtain ⟨-, rfl⟩ | rfl | ⟨w, h⟩ := rmwRead_cases h
  · exact ⟨1, by exact hT, by simp, .inr ⟨0, rfl, by simp [hp, p1], by simp, by simp [hp], by simp [hp,
        Phase.isWrite]⟩⟩
  · exact ⟨1, by exact hT, by simp, .inl ⟨by simp, .inr (.inl rfl)⟩⟩
  · obtain ⟨hg, hl, rfl⟩ | ⟨hg, hv, rfl⟩ | ⟨hg, hv, h⟩ := h
    · exact ⟨1, by exact hT, by simp, .inl ⟨by simp, .inr (.inr ⟨by simp [Status.code], by simp [Status.code],
          by simp [ReadsOnly]⟩)⟩⟩
    · exact ⟨1, by exact hT, by simp, .inl ⟨by simp, .inr (.inr ⟨by simp [Status.code], by simp [Status.code],
          by simp [ReadsOnly]⟩)⟩⟩
    · have tr : ∀ x : List BusRequest, x = s.trace ++ [.write s.devAddr 0x01 (bytesOfWord (cfgPut f w a))] →
          x = T ++ List.take 2 [BusRequest.read s.devAddr 0x01 2, .write s.devAddr 0x01 (bytesOfWord
          (cfgPut f w a))] := by
        intro x hx; rw [hx, hT]; simp [State.readReq]
      obtain ⟨-, rfl⟩ | ⟨-, rfl⟩ | rfl := h
      · refine ⟨2, tr _ rfl, by simp, .inr ⟨1, rfl, p2, rfl, by simp, fun _ => ⟨fun hgt => ?_, p4.trans hv,
            fun u l h => absurd h (p5 u l)⟩⟩⟩
        have := hg (p3 ▸ hgt)
        by_contra hne
        have h2 := (locked_iff w).2 hne
        simp_all
      · exact ⟨2, tr _ rfl, by simp, .inl ⟨rfl, .inl ⟨rfl, rfl⟩⟩⟩
      · exact ⟨2, tr _ rfl, by simp, .inl ⟨rfl, .inr (.inl rfl)⟩⟩

theorem issued_getRead {i : Instr} {f} (hi : i.getter? = some f) {s t : State} {T} (hp : s.phase = .rdCfg)
    (hT : s.trace = T ++ [s.readReq 0x01])
    (h : getRead f s = .next t) : IssuedSoFar i T s.devAddr t := by
  have p1 := busPhases_getter hi
  simp only [IssuedSoFar, transactions_getter hi]
  obtain ⟨-, rfl⟩ | rfl | ⟨w, rfl⟩ := getRead_cases h
  · exact ⟨1, by exact hT, by simp, .inr ⟨0, rfl, by simp [hp, p1], by simp, by simp [hp], by simp [hp,
        Phase.isWrite]⟩⟩
  · exact ⟨1, by exact hT, by simp, .inl ⟨by simp, .inr (.inl rfl)⟩⟩
  · exact ⟨1, by exact hT, by simp, .inl ⟨by simp, .inl ⟨rfl, rfl⟩⟩⟩

theorem issued_clearIntRead {s t : State} {T} (hp : s.phase = .rdCfg) (hT : s.trace = T ++ [s.readReq 0x01])
    (h : clearIntRead s = .next t) : IssuedSoFar .clearInt T s.devAddr t := by
  simp only [IssuedSoFar, Instr.transactions]
  obtain ⟨-, rfl⟩ | rfl | ⟨w, h⟩ := clearIntRead_cases h
  · exact ⟨1, by exact hT, by simp, .inr ⟨0, rfl, by simp [hp, Instr.busPhases], by simp, by simp [hp], by simp [hp,
        Phase.isWrite]⟩⟩
  · exact ⟨1, by exact hT, by simp, .inl ⟨by simp, .inr (.inl rfl)⟩⟩
  · have tr : ∀ x : List BusRequest, x = s.trace ++ [.write s.devAddr 0x01 (bytesOfWord (w ||| 0x0020))] →
        x = T ++ List.take 2 [BusRequest.read s.devAddr 0x01 2, .write s.devAddr 0x01 (bytesOfWord
        (w ||| 0x0020))] := by
        intro x hx; rw [hx, hT]; simp [State.readReq]
    obtain ⟨-, rfl⟩ | ⟨-, rfl⟩ | rfl := h
    · exact ⟨2, tr _ rfl, by simp, .inr ⟨1, rfl, rfl, rfl, by simp, fun _ => ⟨by simp [Instr.gated], rfl, by simp⟩⟩⟩
    · exact ⟨2, tr _ rfl, by simp, .inl ⟨rfl, .inl ⟨rfl, rfl⟩⟩⟩
    · exact ⟨2, tr _ rfl, by simp, .inl ⟨rfl, .inr (.inl rfl)⟩⟩

theorem issued_tempRead {i : Instr} {g} (hi : i = .getTemp ∨ i = .getFlags) {s t : State} {T}
    (hp : s.phase = .rdData) (hT : s.trace = T ++ [s.readReq 0x05])
    (h : tempRead g s = .next t) : IssuedSoFar i T s.devAddr t := by
  have p1 : i.busPhases = [.rdData] := by obtain rfl | rfl := hi <;> rfl
  have p2 : ∀ A c, i.transactions A c = [.read A 0x05 2] := by obtain rfl | rfl := hi <;> intros <;> rfl
  simp only [IssuedSoFar, p2]
  obtain ⟨-, rfl⟩ | rfl | ⟨w, rfl⟩ := tempRead_cases h
  · exact ⟨1, by exact hT, by simp, .inr ⟨0, rfl, by simp [hp, p1], by simp, by simp [hp], by simp [hp,
        Phase.isWrite]⟩⟩
  · exact ⟨1, by exact hT, by simp, .inl ⟨by simp, .inr (.inl rfl)⟩⟩
  · exact ⟨1, by exact hT, by simp, .inl ⟨by simp, .inl ⟨rfl, rfl⟩⟩⟩

theorem issued_initRead2 {s t : State} {T} (hp : s.phase = .rdId2) (hT : s.trace = T ++ [.read s.devAddr 0x07 2,
    s.readReq 0x06])
    (h : initRead2 s = .next t) : IssuedSoFar .init T s.devAddr t := by
  simp only [IssuedSoFar, Instr.transactions]
  obtain ⟨-, rfl⟩ | rfl | ⟨w, rfl | rfl⟩ := initRead2_cases h
  · exact ⟨2, by exact hT, by simp, .inr ⟨1, rfl, by simp [hp, Instr.busPhases], by simp, by simp [hp], by simp [hp,
        Phase.isWrite]⟩⟩
  · exact ⟨2, by exact hT, by simp, .inl ⟨by simp, .inr (.inl rfl)⟩⟩
  · exact ⟨2, by exact hT, by simp, .inl ⟨by simp, .inl ⟨rfl, rfl⟩⟩⟩
  · exact ⟨2, by exact hT, by simp, .inl ⟨by simp, .inr (.inr ⟨by simp [Status.code], by simp [Status.code],
        by simp [ReadsOnly]⟩)⟩⟩

theorem issued_initRead1 {s t : State} {T} (hp : s.phase = .rdData) (hT : s.trace = T ++ [s.readReq 0x07])
    (h : initRead1 s = .next t) : IssuedSoFar .init T s.devAddr t := by
  obtain ⟨-, rfl⟩ | rfl | ⟨w, rfl | h⟩ := initRead1_cases h
  · exact ⟨1, by exact hT, by simp [Instr.transactions], .inr ⟨0, rfl, by simp [hp, Instr.busPhases], by simp,
        by simp [hp], by simp [hp, Phase.isWrite]⟩⟩
  · exact ⟨1, by exact hT, by simp [Instr.transactions], .inl ⟨by simp, .inr (.inl rfl)⟩⟩
  · exact ⟨1, by exact hT, by simp [Instr.transactions], .inl ⟨by simp, .inr (.inr ⟨by simp [Status.code],
        by simp [Status.code], by simp [ReadsOnly, Instr.transactions]⟩)⟩⟩
  · have := issued_initRead2 (T := T) (by simp) (by simp [hT, State.readReq]; rfl) h
    simpa using this

theorem issued_windowWrite1 {u l : Word} {s t : State} {T} (hp : s.phase = .wr1)
    (hT : s.trace = T ++ [.read s.devAddr 0x01 2, s.writeReq 0x02 (encTop u)])
    (hm : s.mayWrite (.setWindow u l)) (h : windowWrite1 u l s = .next t) : IssuedSoFar
       (.setWindow u l) T s.devAddr t := by
  simp only [IssuedSoFar, Instr.transactions]
  obtain ⟨-, rfl⟩ | rfl | h := windowWrite1_cases h
  · exact ⟨2, by exact hT, by simp, .inr ⟨1, rfl, by simp [hp, Instr.busPhases], by simp, by simp [hp], fun _ => hm⟩⟩
  · exact ⟨2, by exact hT, by simp, .inl ⟨by simp, .inr (.inl rfl)⟩⟩
  · have tr : ∀ x : List BusRequest, x = s.trace ++ [s.writeReq 0x03 (encTop l)] →
        x = T ++ List.take 3 [BusRequest.read s.devAddr 0x01 2, .write s.devAddr 0x02 (bytesOfWord (encTop u)),
        .write s.devAddr 0x03 (bytesOfWord (encTop l))] := by
        intro x hx; rw [hx, hT]; simp [State.writeReq]
    obtain ⟨-, rfl⟩ | ⟨-, rfl⟩ | rfl := h
    · exact ⟨3, tr _ rfl, by simp, .inr ⟨2, rfl, rfl, rfl, by simp, fun _ => hm⟩⟩
    · exact ⟨3, tr _ rfl, by simp, .inl ⟨rfl, .inl ⟨rfl, rfl⟩⟩⟩
    · exact ⟨3, tr _ rfl, by simp, .inl ⟨rfl, .inr (.inl rfl)⟩⟩

theorem bits_of_unlocked {w : Word} (h : locked w = false) : w.extractLsb' 6 2 = 0 := by
  by_contra hne
  have h2 := (locked_iff w).2 hne
  simp_all

theorem issued_windowRead {u l : Word} {s t : State} {T} (hp : s.phase = .rdCfg)
    (hT : s.trace = T ++ [s.readReq 0x01])
    (h : windowRead u l s = .next t) : IssuedSoFar (.setWindow u l) T s.devAddr t := by
  obtain ⟨-, rfl⟩ | rfl | ⟨w, h⟩ := windowRead_cases h
  · exact ⟨1, by exact hT, by simp [Instr.transactions], .inr ⟨0, rfl, by simp [hp, Instr.busPhases], by simp,
        by simp [hp], by simp [hp, Phase.isWrite]⟩⟩
  · exact ⟨1, by exact hT, by simp [Instr.transactions], .inl ⟨by simp, .inr (.inl rfl)⟩⟩
  · obtain ⟨-, rfl⟩ | ⟨-, rfl⟩ | ⟨-, rfl⟩ | ⟨hl, hv, hg, h⟩ := windowCheck_cases h
    iterate 3
      exact ⟨1, by exact hT, by simp [Instr.transactions], .inl ⟨by simp, .inr (.inr ⟨by simp [Status.code],
          by simp [Status.code], by simp [ReadsOnly, Instr.transactions]⟩)⟩⟩
    have hm : ∀ u' l', Instr.setWindow u l = .setWindow u' l' → 200 ≤ topVal u' - topVal l' := fun _ _ e => by
      cases e; exact (gapOk_iff _ _).1 hg
    have hw : (Instr.setWindow u l).wellFormed = true := by simp [Instr.wellFormed, hv]
    generalize hx : State.setCfgBuf w (State.served (State.readReq Config.regConfig s) s) = x at *
    have hd : x.devAddr = s.devAddr := by rw [← hx]; rfl
    have ht : x.trace = T ++ [.read s.devAddr 0x01 2] := by rw [← hx]; exact hT
    have := issued_windowWrite1 (s := x.issue .wr1 (x.writeReq Config.regTUpper (encTop u))) (T := T) rfl
      (by rw [State.issue_trace, ht, List.append_assoc, ← hd]; rfl) ⟨fun _ => bits_of_unlocked hl, hw, hm⟩ h
    rw [State.issue_devAddr, hd] at this
    exact this

theorem issued_critRead {a : Word} {s t : State} {T} (hp : s.phase = .rdCfg) (hT : s.trace = T ++ [s.readReq 0x01])
    (h : critRead a s = .next t) : IssuedSoFar (.setCrit a) T s.devAddr t := by
  simp only [IssuedSoFar, Instr.transactions]
  obtain ⟨-, rfl⟩ | rfl | ⟨w, h⟩ := critRead_cases h
  · exact ⟨1, by exact hT, by simp, .inr ⟨0, rfl, by simp [hp, Instr.busPhases], by simp, by simp [hp], by simp [hp,
        Phase.isWrite]⟩⟩
  · exact ⟨1, by exact hT, by simp, .inl ⟨by simp, .inr (.inl rfl)⟩⟩
  · obtain ⟨-, rfl⟩ | ⟨-, -, rfl⟩ | ⟨hl, hv, h⟩ := critCheck_cases h
    iterate 2
      exact ⟨1, by exact hT, by simp, .inl ⟨by simp, .inr (.inr ⟨by simp [Status.code], by simp [Status.code],
          by simp [ReadsOnly]⟩)⟩⟩
    have tr : ∀ x : List BusRequest, x = s.trace ++ [.write s.devAddr 0x04 (bytesOfWord (encTop a))] →
        x = T ++ List.take 2 [BusRequest.read s.devAddr 0x01 2, .write s.devAddr 0x04 (bytesOfWord (encTop a))] := by
        intro x hx; rw [hx, hT]; simp [State.readReq]
    obtain ⟨-, rfl⟩ | ⟨-, rfl⟩ | rfl := h
    · exact ⟨2, tr _ rfl, by simp, .inr ⟨1, rfl, rfl, rfl, by simp, fun _ => ⟨fun _ => bits_of_unlocked hl, hv,
          by simp⟩⟩⟩
    · exact ⟨2, tr _ rfl, by simp, .inl ⟨rfl, .inl ⟨rfl, rfl⟩⟩⟩
    · exact ⟨2, tr _ rfl, by simp, .inl ⟨rfl, .inr (.inl rfl)⟩⟩

theorem issued_resCheck {a : Word} {s t : State} (h : resCheck a s = .next t) : IssuedSoFar
    (.setResolution a) s.trace s.devAddr t := by
  simp only [IssuedSoFar, Instr.transactions]
  obtain ⟨-, rfl⟩ | ⟨hv, h⟩ := resCheck_cases h
  · exact ⟨0, by simp, by simp, .inl ⟨by simp, .inr (.inr ⟨by simp [Status.code], by simp [Status.code],
        by simp [ReadsOnly]⟩)⟩⟩
  · obtain ⟨-, rfl⟩ | ⟨-, rfl⟩ | rfl := h
    · exact ⟨1, rfl, by simp, .inr ⟨0, rfl, rfl, rfl, by simp, fun _ => ⟨by simp [Instr.gated], hv, by simp⟩⟩⟩
    · exact ⟨1, rfl, by simp, .inl ⟨rfl, .inl ⟨rfl, rfl⟩⟩⟩
    · exact ⟨1, rfl, by simp, .inl ⟨rfl, .inr (.inl rfl)⟩⟩

theorem busFree_cases {i : Instr} (hi : i.busFree = true) {s t : State}
    (h : exec i s = .next t) : t.trace = s.trace ∧ t.phase = .idle ∧ (t.status = 0 ∨ t.status = 1) := by
  cases i <;> simp only [Instr.busFree, Bool.false_eq_true] at hi <;> simp only [exec, execDecTemp, execEncThr,
      execDecFlags, execCfgGet, execCfgPut, execSetAddr] at h <;> have h := checkOnly_cases h
  · rw [← (done_eq_next _).1 h]; simp [Status.code]
  · split at h <;> simp only [done_eq_next, raise_eq_next] at h <;> subst h <;> simp [Status.code]
  · rw [← (done_eq_next _).1 h]; simp [Status.code]
  · split at h <;> simp only [done_eq_next, raise_eq_next] at h <;> subst h <;> simp [Status.code]
  · split at h
    · split at h <;> simp only [done_eq_next, raise_eq_next] at h <;> subst h <;> simp [Status.code]
    · simp only [raise_eq_next] at h; subst h; simp [Status.code]
  · split at h <;> simp only [done_eq_next, raise_eq_next] at h <;> subst h <;> simp [Status.code]

/-- What a command started in IDLE has issued and where it stands (R187, R162). -/
theorem exec_issued {i : Instr} {s t : State} (hs : s.phase = .idle)
    (h : exec i s = .next t) : IssuedSoFar i s.trace s.devAddr t := by
  by_cases hf : i.busFree = true
  · obtain ⟨h1, h2, h3⟩ := busFree_cases hf h
    have : ∀ c, i.transactions s.devAddr c = [] := by cases i <;> simp only [Instr.busFree,
        Bool.false_eq_true] at hf <;> intros <;> rfl
    refine ⟨0, by simp [h1], by simp, .inl ⟨h2, ?_⟩⟩
    obtain h3 | h3 := h3
    · left; simp [h3, this]
    · right; right; simp [h3, ReadsOnly]
  · cases hset : i.setter? with
    | some x =>
      obtain ⟨f, g, a⟩ := x
      rw [exec_setter hset, rmw, hs] at h
      simpa using issued_rmwRead hset (by simp) (by simp; rfl) h
    | none =>
    cases hget : i.getter? with
    | some f =>
      rw [exec_getter hget, getField, hs] at h
      simpa using issued_getRead hget (by simp) (by simp; rfl) h
    | none =>
      cases i <;> simp only [Instr.busFree, not_true, reduceCtorEq] at hf <;> simp only [Instr.setter?,
          reduceCtorEq] at hset <;> simp only [Instr.getter?, reduceCtorEq] at hget
      case init => rw [exec, execInit, hs] at h; simpa using issued_initRead1 (by simp) (by simp; rfl) h
      case getTemp =>
        rw [exec, execGetTemp, readTemperature, hs] at h
        simpa using issued_tempRead (.inl rfl) (by simp) (by simp; rfl) h
      case getFlags =>
        rw [exec, execGetFlags, readTemperature, hs] at h
        simpa using issued_tempRead (.inr rfl) (by simp) (by simp; rfl) h
      case setResolution => rw [exec, execSetResolution, hs] at h; exact issued_resCheck h
      case setWindow => rw [exec, execSetWindow, hs] at h; simpa using issued_windowRead (by simp) (by simp; rfl) h
      case setCrit => rw [exec, execSetCrit, hs] at h; simpa using issued_critRead (by simp) (by simp; rfl) h
      case clearInt => rw [exec, execClearInt, hs] at h; simpa using issued_clearIntRead (by simp) (by simp; rfl) h

end Sys2Proof.Machine
end

