-- ==== Sys2Proof/Laws/Outcome.lean ====
section
/-! SUPPORT. How each sequence leaves the response: one lemma per sequence, and `exec_endsOrWaits` for all 28 commands. -/

namespace Sys2Proof.Machine

/-- What a status code says. -/
theorem status_code_cases (st : Status) :
    st.code.toNat ≤ 6 ∧ (st.powerCycleRequired = true ↔ st.code = 2) ∧ (st.code ≠ 0 ↔ st ≠ .ok) :=
        by cases st <;> decide

/-- From `s`, the command `i` waits in `t` with the response as it was, or has ended in `t` with a status: the result is 0
unless the status is OK, and RegisterLocked only if `i` is gated. -/
def EndsOrWaits (i : Instr) (s t : State) : Prop :=
  (t.phase ≠ .idle ∧ t.status = s.status ∧ t.pcr = s.pcr ∧ t.res = s.res) ∨
  (∃ u st v, t = State.finish st v u ∧ (st ≠ .ok → v = 0) ∧ (st = .registerLocked → i.gated = true))

theorem endsOrWaits_lastWrite {i : Instr} {req s0 s t} (hp : s.phase ≠ .idle) (h : LastWrite req s t)
    (h1 : s.status = s0.status ∧ s.pcr = s0.pcr ∧ s.res = s0.res) : EndsOrWaits i s0 t := by
  obtain ⟨-, rfl⟩ | ⟨-, rfl⟩ | rfl := h
  · exact .inl ⟨hp, h1⟩
  · exact .inr ⟨_, _, _, rfl, by simp, by simp⟩
  · exact .inr ⟨_, _, _, rfl, by simp, by simp⟩

theorem endsOrWaits_read {i : Instr} {req s0 s t K} (hp : s.phase ≠ .idle) (h : AfterReadWait req K s t)
    (hk : ∀ w, K w (s.served req) t → EndsOrWaits i s0 t) (h1 : s.status = s0.status ∧ s.pcr = s0.pcr ∧
       s.res = s0.res) : EndsOrWaits i s0 t := by
  obtain ⟨-, rfl⟩ | rfl | ⟨w, h⟩ := h
  · exact .inl ⟨hp, h1⟩
  · exact .inr ⟨_, _, _, rfl, by simp, by simp⟩
  · exact hk w h

theorem endsOrWaits_finish {i : Instr} {s0 u st v} (h : st ≠ .ok → v = 0) (h2 : st = .registerLocked →
    i.gated = true) : EndsOrWaits i s0 (State.finish st v u) := .inr ⟨_, _, _, rfl, h, h2⟩

theorem endsOrWaits_rmwCheck {i : Instr} {f g a s0 s t} (hi : i.setter? = some (f,g,a))
    (h : rmwCheck f g a s = .next t) (h1 : s.status = s0.status ∧ s.pcr = s0.pcr ∧
    s.res = s0.res) : EndsOrWaits i s0 t := by
  obtain ⟨hg, hl, rfl⟩ | ⟨hg, hv, rfl⟩ | ⟨hg, hv, h⟩ := rmwCheck_cases h
  · exact endsOrWaits_finish (by simp) (fun _ => by rw [(setter_facts hi).2.1, hg])
  · exact endsOrWaits_finish (by simp) (by simp)
  · exact endsOrWaits_lastWrite (by simp) h h1

theorem endsOrWaits_windowWrite1 {i : Instr} {u l s0 s t} (hp : s.phase ≠ .idle) (h : windowWrite1 u l s = .next t)
    (h1 : s.status = s0.status ∧ s.pcr = s0.pcr ∧ s.res = s0.res) : EndsOrWaits i s0 t := by
  obtain ⟨-, rfl⟩ | rfl | h := windowWrite1_cases h
  · exact .inl ⟨hp, h1⟩
  · exact endsOrWaits_finish (by simp) (by simp)
  · exact endsOrWaits_lastWrite (by simp) h h1

theorem endsOrWaits_windowCheck {u l s0 s t} (h : windowCheck u l s = .next t) (h1 : s.status = s0.status ∧
    s.pcr = s0.pcr ∧ s.res = s0.res) : EndsOrWaits (.setWindow u l) s0 t := by
  obtain ⟨-, rfl⟩ | ⟨-, rfl⟩ | ⟨-, rfl⟩ | ⟨hl, hv, hg, h⟩ := windowCheck_cases h
  · exact endsOrWaits_finish (by simp) (by simp [Instr.gated])
  · exact endsOrWaits_finish (by simp) (by simp)
  · exact endsOrWaits_finish (by simp) (by simp)
  · exact endsOrWaits_windowWrite1 (by simp) h h1

theorem endsOrWaits_critCheck {a s0 s t} (h : critCheck a s = .next t) (h1 : s.status = s0.status ∧ s.pcr = s0.pcr ∧
    s.res = s0.res) : EndsOrWaits (.setCrit a) s0 t := by
  obtain ⟨-, rfl⟩ | ⟨-, -, rfl⟩ | ⟨hl, hv, h⟩ := critCheck_cases h
  · exact endsOrWaits_finish (by simp) (by simp [Instr.gated])
  · exact endsOrWaits_finish (by simp) (by simp)
  · exact endsOrWaits_lastWrite (by simp) h h1

theorem endsOrWaits_resCheck {a s0 s t} (h : resCheck a s = .next t) (h1 : s.status = s0.status ∧ s.pcr = s0.pcr ∧
    s.res = s0.res) : EndsOrWaits (.setResolution a) s0 t := by
  obtain ⟨-, rfl⟩ | ⟨hv, h⟩ := resCheck_cases h
  · exact endsOrWaits_finish (by simp) (by simp)
  · exact endsOrWaits_lastWrite (by simp) h h1

theorem endsOrWaits_initRead2 {s0 s t} (hp : s.phase ≠ .idle) (h : initRead2 s = .next t)
    (h1 : s.status = s0.status ∧ s.pcr = s0.pcr ∧ s.res = s0.res) : EndsOrWaits .init s0 t := by
  refine endsOrWaits_read hp (initRead2_cases h) ?_ h1
  rintro w (rfl | rfl)
  · exact endsOrWaits_finish (by simp) (by simp)
  · exact endsOrWaits_finish (by simp) (by simp)

theorem endsOrWaits_initRead1 {s0 s t} (hp : s.phase ≠ .idle) (h : initRead1 s = .next t)
    (h1 : s.status = s0.status ∧ s.pcr = s0.pcr ∧ s.res = s0.res) : EndsOrWaits .init s0 t := by
  refine endsOrWaits_read hp (initRead1_cases h) ?_ h1
  rintro w (rfl | h)
  · exact endsOrWaits_finish (by simp) (by simp)
  · exact endsOrWaits_initRead2 (by simp) h h1

theorem endsOrWaits_tempRead {i : Instr} {g s0 s t} (hp : s.phase ≠ .idle) (h : tempRead g s = .next t)
    (h1 : s.status = s0.status ∧ s.pcr = s0.pcr ∧ s.res = s0.res) : EndsOrWaits i s0 t := by
  refine endsOrWaits_read hp (tempRead_cases h) ?_ h1
  rintro w rfl
  exact endsOrWaits_finish (by simp) (by simp)

theorem endsOrWaits_getRead {i : Instr} {f s0 s t} (hp : s.phase ≠ .idle) (h : getRead f s = .next t)
    (h1 : s.status = s0.status ∧ s.pcr = s0.pcr ∧ s.res = s0.res) : EndsOrWaits i s0 t := by
  refine endsOrWaits_read hp (getRead_cases h) ?_ h1
  rintro w rfl
  exact endsOrWaits_finish (by simp) (by simp)

/-- Everything a command can do to the response, from whatever state (R218, R219). -/
theorem exec_endsOrWaits {i : Instr} {s t : State} (h : exec i s = .next t) : EndsOrWaits i s t := by
  have h1 : s.status = s.status ∧ s.pcr = s.pcr ∧ s.res = s.res := ⟨rfl, rfl, rfl⟩
  cases hset : i.setter? with
  | some x =>
    obtain ⟨f, g, a⟩ := x
    rw [exec_setter hset, rmw] at h
    split at h
    · refine endsOrWaits_read (by simp) (rmwRead_cases h) (fun w h => ?_) h1
      obtain ⟨hg, hl, rfl⟩ | ⟨hg, hv, rfl⟩ | ⟨hg, hv, h⟩ := h
      · exact endsOrWaits_finish (by simp) (fun _ => by rw [(setter_facts hset).2.1, hg])
      · exact endsOrWaits_finish (by simp) (by simp)
      · exact endsOrWaits_lastWrite (by simp) h h1
    · rename_i hp
      refine endsOrWaits_read (by simp [hp]) (rmwRead_cases h) (fun w h => ?_) h1
      obtain ⟨hg, hl, rfl⟩ | ⟨hg, hv, rfl⟩ | ⟨hg, hv, h⟩ := h
      · exact endsOrWaits_finish (by simp) (fun _ => by rw [(setter_facts hset).2.1, hg])
      · exact endsOrWaits_finish (by simp) (by simp)
      · exact endsOrWaits_lastWrite (by simp) h h1
    · exact endsOrWaits_rmwCheck hset h h1
    · rename_i hp
      exact endsOrWaits_lastWrite (by simp [hp]) (lastWrite_of h) h1
    all_goals cases h
  | none =>
  cases hget : i.getter? with
  | some f =>
    rw [exec_getter hget, getField] at h
    split at h
    · exact endsOrWaits_getRead (by simp) h h1
    · rename_i hp; exact endsOrWaits_getRead (by simp [hp]) h h1
    · rw [getCheck, done_eq_next] at h; subst h; exact endsOrWaits_finish (by simp) (by simp)
    all_goals cases h
  | none =>
    cases i <;> simp only [Instr.setter?, reduceCtorEq] at hset <;> simp only [Instr.getter?, reduceCtorEq] at hget
    case init =>
      rw [exec, execInit] at h; split at h
      · exact endsOrWaits_initRead1 (by simp) h h1
      · rename_i hp; exact endsOrWaits_initRead1 (by simp [hp]) h h1
      · rename_i hp; exact endsOrWaits_initRead2 (by simp [hp]) h h1
      all_goals cases h
    case getTemp =>
      rw [exec, execGetTemp, readTemperature] at h; split at h
      · exact endsOrWaits_tempRead (by simp) h h1
      · rename_i hp; exact endsOrWaits_tempRead (by simp [hp]) h h1
      all_goals cases h
    case getFlags =>
      rw [exec, execGetFlags, readTemperature] at h; split at h
      · exact endsOrWaits_tempRead (by simp) h h1
      · rename_i hp; exact endsOrWaits_tempRead (by simp [hp]) h h1
      all_goals cases h
    case setResolution =>
      rw [exec, execSetResolution] at h; split at h
      · exact endsOrWaits_resCheck h h1
      · exact endsOrWaits_resCheck h h1
      · rename_i hp; exact endsOrWaits_lastWrite (by simp [hp]) (lastWrite_of h) h1
      all_goals cases h
    case setWindow =>
      rw [exec, execSetWindow] at h; split at h
      · exact endsOrWaits_read (by simp) (windowRead_cases h) (fun w h => endsOrWaits_windowCheck h h1) h1
      · rename_i hp; exact endsOrWaits_read (by simp [hp]) (windowRead_cases h)
            (fun w h => endsOrWaits_windowCheck h h1) h1
      · exact endsOrWaits_windowCheck h h1
      · rename_i hp; exact endsOrWaits_windowWrite1 (by simp [hp]) h h1
      · rename_i hp; exact endsOrWaits_lastWrite (by simp [hp]) (lastWrite_of h) h1
      all_goals cases h
    case setCrit =>
      rw [exec, execSetCrit] at h; split at h
      · exact endsOrWaits_read (by simp) (critRead_cases h) (fun w h => endsOrWaits_critCheck h h1) h1
      · rename_i hp; exact endsOrWaits_read (by simp [hp]) (critRead_cases h)
            (fun w h => endsOrWaits_critCheck h h1) h1
      · exact endsOrWaits_critCheck h h1
      · rename_i hp; exact endsOrWaits_lastWrite (by simp [hp]) (lastWrite_of h) h1
      all_goals cases h
    case clearInt =>
      rw [exec, execClearInt] at h; split at h
      · exact endsOrWaits_read (by simp) (clearIntRead_cases h) (fun w h => endsOrWaits_lastWrite (by simp) h h1) h1
      · rename_i hp; exact endsOrWaits_read (by simp [hp]) (clearIntRead_cases h) (fun w h => endsOrWaits_lastWrite
            (by simp) h h1) h1
      · rename_i hp; exact endsOrWaits_lastWrite (by simp [hp]) (lastWrite_of h) h1
      all_goals cases h
    all_goals
      simp only [exec, execDecTemp, execEncThr, execDecFlags, execCfgGet, execCfgPut, execSetAddr] at h
      have h := checkOnly_cases h
      (repeat' split at h) <;> simp only [done_eq_next, raise_eq_next] at h <;> subst h <;> exact endsOrWaits_finish
          (by simp) (by simp)

end Sys2Proof.Machine
end

