-- ==== Sys2Proof/Laws/PerInstr.lean ====
section
/-! SUPPORT. Facts about each command as syntax, one lemma per constructor. -/

namespace Sys2Proof.Laws.MatchesTable

/-- The command's word matches its row of R84: `opc` alone, the bits 39:32, selects the command. -/
def Statement (i : Instr) : Prop := (encode i).toNat / 2 ^ 32 = i.opcode.toNat

/-- The bits 39:32 of a command word are its opcode. -/
theorem selected (o : Byte) (a b : Word) : (cmdWord o a b).toNat / 2 ^ 32 = o.toNat := by
  rw [toNat_cmdWord]
  omega

theorem decTemp (a : Word) : Statement (.decTemp a) := selected _ _ _
theorem encThr (a : Word) : Statement (.encThr a) := selected _ _ _
theorem decFlags (a : Word) : Statement (.decFlags a) := selected _ _ _
theorem cfgGet (a b : Word) : Statement (.cfgGet a b) := selected _ _ _
theorem cfgPut (a b : Word) : Statement (.cfgPut a b) := selected _ _ _
theorem init : Statement .init := selected _ _ _
theorem getTemp : Statement .getTemp := selected _ _ _
theorem getFlags : Statement .getFlags := selected _ _ _
theorem setResolution (a : Word) : Statement (.setResolution a) := selected _ _ _
theorem setWindow (a b : Word) : Statement (.setWindow a b) := selected _ _ _
theorem setCrit (a : Word) : Statement (.setCrit a) := selected _ _ _
theorem clearInt : Statement .clearInt := selected _ _ _
theorem setAddr (a : Word) : Statement (.setAddr a) := selected _ _ _
theorem setPower (a : Word) : Statement (.setPower a) := selected _ _ _
theorem setHyst (a : Word) : Statement (.setHyst a) := selected _ _ _
theorem setLock (a : Word) : Statement (.setLock a) := selected _ _ _
theorem setAlertEn (a : Word) : Statement (.setAlertEn a) := selected _ _ _
theorem setAlertPol (a : Word) : Statement (.setAlertPol a) := selected _ _ _
theorem setAlertMode (a : Word) : Statement (.setAlertMode a) := selected _ _ _
theorem setAlertResp (a : Word) : Statement (.setAlertResp a) := selected _ _ _
theorem getPower : Statement .getPower := selected _ _ _
theorem getHyst : Statement .getHyst := selected _ _ _
theorem getLock : Statement .getLock := selected _ _ _
theorem getAlertEn : Statement .getAlertEn := selected _ _ _
theorem getAlertPol : Statement .getAlertPol := selected _ _ _
theorem getAlertMode : Statement .getAlertMode := selected _ _ _
theorem getAlertResp : Statement .getAlertResp := selected _ _ _
theorem getIntClear : Statement .getIntClear := selected _ _ _

end Sys2Proof.Laws.MatchesTable
end

