-- ==== Sys2Proof/Tests/Slice0.lean ====
section
/-! SUPPORT. Tests. Expected results are the spec's own worked examples (95_test_vectors.md, and the examples in the rules
named) or words written out from the encoding rules R80 and R84. The witnesses show that the hypotheses of each statement
can be met together, at the ends of their ranges. -/

namespace Sys2Proof.Tests

open Sys2Proof Sys2Proof.Machine

/-! ### Helpers -/

/-- The block after reset, with a collaborator that answers so. -/
def ready (es : List BusEvent) : State := { State.reset with script := es }

/-- The block after reset, with REFDEV at 0x18 holding these bytes. -/
def withDevice (m : Memory) (es : List BusEvent) : State :=
  { State.reset with refDev := some 0x18, devMem := m, script := es }

/-- The collaborator answers these bytes. -/
def bytes (l : List Byte) : BusEvent := .answer (.data l)

/-- The collaborator acknowledges. -/
def ok : BusEvent := .answer .ack

/-- The collaborator reports a failure. -/
def bad : BusEvent := .answer .error

/-- What can be observed when an operation has ended: status, marker, result, transactions (R10). -/
def seen : Result → Option (Nat × Bool × Nat × List BusRequest)
  | .next t => if t.phase = .idle then some (t.status.toNat, t.pcr, t.res.toNat, t.trace) else none
  | .fault _ => none
  | .refused _ => none

/-- A command at the block after reset, with a collaborator that answers so. -/
def ran (i : Instr) (es : List BusEvent) : Option (Nat × Bool × Nat × List BusRequest) := seen (exec i (ready es))

/-- The read of CONFIG at the default address. -/
def readConfig : BusRequest := .read 0x18 0x01 2

/-- A write of CONFIG at the default address. -/
def writeConfig (x y : Byte) : BusRequest := .write 0x18 0x01 [x, y]

/-! ### WellFormed: for each check a term it refuses (R82) -/

theorem test_ill_formed_enc_thr_fraction : (Instr.encThr 0x0564).wellFormed = false := by decide

theorem test_ill_formed_cfg_get_id : (Instr.cfgGet 0x0000 8).wellFormed = false := by decide

theorem test_ill_formed_cfg_put_id : (Instr.cfgPut 0x0000 0x0800).wellFormed = false := by decide

theorem test_ill_formed_cfg_put_value : (Instr.cfgPut 0x0000 0x0002).wellFormed = false := by decide

theorem test_ill_formed_set_resolution : (Instr.setResolution 4).wellFormed = false := by decide

theorem test_ill_formed_set_window_upper : (Instr.setWindow 0x0564 0x0000).wellFormed = false := by decide

theorem test_ill_formed_set_window_lower : (Instr.setWindow 0x0500 0x0064).wellFormed = false := by decide

theorem test_ill_formed_set_crit : (Instr.setCrit 0x007F).wellFormed = false := by decide

theorem test_ill_formed_set_addr : (Instr.setAddr 0x80).wellFormed = false := by decide

theorem test_ill_formed_set_power : (Instr.setPower 2).wellFormed = false := by decide

theorem test_ill_formed_set_hyst_whole_operand : (Instr.setHyst 0x0102).wellFormed = false := by decide

theorem test_ill_formed_set_lock : (Instr.setLock 4).wellFormed = false := by decide

theorem test_ill_formed_set_alert_en : (Instr.setAlertEn 2).wellFormed = false := by decide

theorem test_ill_formed_set_alert_pol : (Instr.setAlertPol 0x8000).wellFormed = false := by decide

theorem test_ill_formed_set_alert_mode : (Instr.setAlertMode 2).wellFormed = false := by decide

theorem test_ill_formed_set_alert_resp : (Instr.setAlertResp 2).wellFormed = false := by decide

theorem test_well_formed_at_the_ends :
    (Instr.encThr 0xFFE3).wellFormed = true ∧ (Instr.cfgGet 0xFFFF 7).wellFormed = true ∧
    (Instr.cfgPut 0xFFFF 0x0701).wellFormed = true ∧ (Instr.setResolution 3).wellFormed = true ∧
    (Instr.setWindow 0x7FE3 0xFFE3).wellFormed = true ∧ (Instr.setAddr 0x7F).wellFormed = true ∧
    (Instr.setHyst 3).wellFormed = true ∧ (Instr.setAlertPol 1).wellFormed = true := by decide

/-! ### Decoding: for every command a word written out from R80 and R84 -/

theorem test_decode_decTemp : decode 0x0101040000 = .ok (.decTemp 0x0104) := rfl

theorem test_decode_encThr : decode 0x0294000000 = .ok (.encThr 0x9400) := rfl

theorem test_decode_decFlags : decode 0x03C1940000 = .ok (.decFlags 0xC194) := rfl

theorem test_decode_cfgGet : decode 0x0400C00002 = .ok (.cfgGet 0x00C0 2) := rfl

theorem test_decode_cfgPut : decode 0x05F8100202 = .ok (.cfgPut 0xF810 0x0202) := rfl

theorem test_decode_init : decode 0x1000000000 = .ok .init := rfl

theorem test_decode_getTemp : decode 0x1100000000 = .ok .getTemp := rfl

theorem test_decode_getFlags : decode 0x1200000000 = .ok .getFlags := rfl

theorem test_decode_setResolution : decode 0x1300030000 = .ok (.setResolution 3) := rfl

theorem test_decode_setWindow : decode 0x1405000401 = .ok (.setWindow 0x0500 0x0401) := rfl

theorem test_decode_setCrit : decode 0x1519320000 = .ok (.setCrit 0x1932) := rfl

theorem test_decode_clearInt : decode 0x1600000000 = .ok .clearInt := rfl

theorem test_decode_setAddr : decode 0x1700190000 = .ok (.setAddr 0x19) := rfl

theorem test_decode_setPower : decode 0x2000010000 = .ok (.setPower 1) := rfl

theorem test_decode_setHyst : decode 0x2101020000 = .ok (.setHyst 0x0102) := rfl

theorem test_decode_setLock : decode 0x2200030000 = .ok (.setLock 3) := rfl

theorem test_decode_setAlertEn : decode 0x2300010000 = .ok (.setAlertEn 1) := rfl

theorem test_decode_setAlertPol : decode 0x2400000000 = .ok (.setAlertPol 0) := rfl

theorem test_decode_setAlertMode : decode 0x2500010000 = .ok (.setAlertMode 1) := rfl

theorem test_decode_setAlertResp : decode 0x2600010000 = .ok (.setAlertResp 1) := rfl

theorem test_decode_getPower : decode 0x3000000000 = .ok .getPower := rfl

theorem test_decode_getHyst : decode 0x3100000000 = .ok .getHyst := rfl

theorem test_decode_getLock : decode 0x32FFFFFFFF = .ok .getLock := rfl

theorem test_decode_getAlertEn : decode 0x3300000000 = .ok .getAlertEn := rfl

theorem test_decode_getAlertPol : decode 0x3400000000 = .ok .getAlertPol := rfl

theorem test_decode_getAlertMode : decode 0x3500000000 = .ok .getAlertMode := rfl

theorem test_decode_getAlertResp : decode 0x3612345678 = .ok .getAlertResp := rfl

theorem test_decode_getIntClear : decode 0x3700000000 = .ok .getIntClear := rfl

/-- One word of each family bit by bit: opcode, first operand, second operand. -/
theorem test_decode_bit_by_bit :
    decode 0b0000000100000001000001000000000000000000 = .ok (.decTemp 0x0104) ∧
    decode 0b0001010000001111000000000000101000000000 = .ok (.setWindow 0x0F00 0x0A00) ∧
    decode 0b0010001000000000000000110000000000000000 = .ok (.setLock 3) ∧
    decode 0b0011000100000000000000000000000000000000 = .ok .getHyst ∧
    decode 0b0001011000000000000000000000000000000000 = .ok .clearInt := ⟨rfl, rfl, rfl, rfl, rfl⟩

theorem test_decode_reserved_opcodes :
    ∀ o ∈ [0x00, 0x06, 0x0F, 0x18, 0x1F, 0x27, 0x2F, 0x38, 0xFF],
    (decode (cmdWord o 0x0001 0x0000)).toOption = none := by decide

theorem test_encode_words :
    encode (.setWindow 0x0CB2 0x8299) = 0x140CB28299 ∧ encode (.cfgPut 0x07EF 0x0700) = 0x0507EF0700 ∧
    encode .getTemp = 0x1100000000 := by decide

theorem test_table_word :
    decodeTableWord 40 0x1519320000 = some (.setCrit 0x1932) ∧ decodeTableWord 40 0x2700010000 = none ∧
    decodeTableWord 48 0x1519320000 = none := by decide

theorem test_assembler_programs :
    assembleHex "SET_WINDOW +25.50, -5.25" = some "140CB28299" ∧ assembleHex "SET_ADDR 0x19" = some "1700190000" ∧
    assembleHex "CFG_PUT 0xF810, LOCK_STATE=2" = some "05F8100202" ∧ assembleHex "GET_LOCK" = some "3200000000" := by decide

theorem test_assembler_names :
    assembleHex "SET_LOCK CRIT_WINDOW_LOCKED" = some "2200030000" ∧ assembleHex "CFG_GET 0x00C0, LOCK_STATE" =
    some "0400C00002" ∧ assembleHex "SET_CRIT +256.00" = none ∧ assembleHex "GET_TEMP 1" = none := by decide

/-! ### One command each (sections 2 to 5 of 95_test_vectors.md) -/

theorem test_dec_temp_sign_set : ran (.decTemp 0x1104) [] = some (0, false, 3836, []) := by decide

theorem test_dec_temp_flags_ignored : ran (.decTemp 0xE104) [] = some (0, false, 260, []) := by decide

theorem test_enc_thr_negative : ran (.encThr 0x9400) [] = some (0, false, 0x1280, []) := by decide

theorem test_enc_thr_half_goes_up : ran (.encThr 0x0532) [] = some (0, false, 0x00AC, []) := by decide

theorem test_dec_flags : ran (.decFlags 0xC194) [] = some (0, false, 6, []) := by decide

theorem test_cfg_get : ran (.cfgGet 0x00C0 2) [] = some (0, false, 3, []) := by decide

theorem test_cfg_get_no_such_field : ran (.cfgGet 0x0000 8) [] = some (1, false, 0, []) := by decide

theorem test_cfg_put_keeps_other_bits : ran (.cfgPut 0xF810 0x0202) [] = some (0, false, 0xF890, []) := by decide

theorem test_cfg_put_value_too_wide : ran (.cfgPut 0x0000 0x0002) [] = some (1, false, 0, []) := by decide

theorem test_init_matches :
    ran .init [bytes [0x04, 0x00], bytes [0x00, 0x54]] = some (0, false, 1, [.read 0x18 0x07 2, .read 0x18 0x06 2]) := by decide

theorem test_init_stops_at_first_mismatch :
    ran .init [bytes [0x05, 0x00]] = some (5, false, 0, [.read 0x18 0x07 2]) := by decide

theorem test_get_temp :
    ran .getTemp [bytes [0x11, 0x04]] = some (0, false, 0x0EFC, [.read 0x18 0x05 2]) := by decide

theorem test_get_flags :
    ran .getFlags [bytes [0xC1, 0x94]] = some (0, false, 6, [.read 0x18 0x05 2]) := by decide

theorem test_set_resolution :
    ran (.setResolution 3) [ok] = some (0, false, 0, [.write 0x18 0x08 [0x03]]) := by decide

theorem test_set_resolution_invalid : ran (.setResolution 4) [] = some (1, false, 0, []) := by decide

theorem test_set_window_gap_199 :
    ran (.setWindow 0x0500 0x0401) [bytes [0x00, 0x00]] = some (3, false, 0, [readConfig]) := by decide

theorem test_set_crit :
    ran (.setCrit 0x1932) [bytes [0x00, 0x00], ok] = some (0, false, 0, [readConfig, .write 0x18 0x04 [0x03, 0x2C]]) := by decide

theorem test_set_crit_window_lock :
    ran (.setCrit 0x1932) [bytes [0x00, 0x40]] = some (2, true, 0, [readConfig]) := by decide

theorem test_clear_int_when_locked :
    ran .clearInt [bytes [0x00, 0xC8], ok] = some (0, false, 0, [readConfig, writeConfig 0x00 0xE8]) := by decide

theorem test_set_addr :
    exec (.setAddr 0x19) (ready []) = .next { ready [] with devAddr := 0x19 } := rfl

theorem test_set_addr_invalid : ran (.setAddr 0x80) [] = some (1, false, 0, []) := by decide

theorem test_set_power_keeps_other_bits :
    ran (.setPower 0) [bytes [0xF9, 0x10], ok] = some (0, false, 0, [readConfig, writeConfig 0xF8 0x10]) := by decide

theorem test_set_power_lock_before_validation :
    ran (.setPower 2) [bytes [0x00, 0xC0]] = some (2, true, 0, [readConfig]) := by decide

theorem test_set_hyst :
    ran (.setHyst 2) [bytes [0x01, 0x08], ok] = some (0, false, 0, [readConfig, writeConfig 0x05 0x08]) := by decide

theorem test_set_hyst_whole_operand :
    ran (.setHyst 0x0102) [bytes [0x00, 0x00]] = some (1, false, 0, [readConfig]) := by decide

theorem test_set_lock_not_gated :
    ran (.setLock 1) [bytes [0x00, 0x80], ok] = some (0, false, 0, [readConfig, writeConfig 0x00 0x40]) := by decide

theorem test_set_alert_en :
    ran (.setAlertEn 1) [bytes [0x00, 0x00], ok] = some (0, false, 0, [readConfig, writeConfig 0x00 0x08]) := by decide

theorem test_set_alert_pol :
    ran (.setAlertPol 0) [bytes [0x00, 0x0A], ok] = some (0, false, 0, [readConfig, writeConfig 0x00 0x08]) := by decide

theorem test_set_alert_mode :
    ran (.setAlertMode 1) [bytes [0x00, 0x08], ok] = some (0, false, 0, [readConfig, writeConfig 0x00 0x09]) := by decide

theorem test_set_alert_resp_writes_even_unchanged :
    ran (.setAlertResp 1) [bytes [0x06, 0x04], ok] = some (0, false, 0, [readConfig, writeConfig 0x06 0x04]) := by decide

theorem test_get_power : ran .getPower [bytes [0x01, 0x00]] = some (0, false, 1, [readConfig]) := by decide

theorem test_get_hyst : ran .getHyst [bytes [0x05, 0x08]] = some (0, false, 2, [readConfig]) := by decide

theorem test_get_lock : ran .getLock [bytes [0x00, 0xC8]] = some (0, false, 3, [readConfig]) := by decide

theorem test_get_alert_en :
    ran .getAlertEn [bytes [0x00, 0x08]] = some (0, false, 1, [readConfig]) := by decide

theorem test_get_alert_pol :
    ran .getAlertPol [bytes [0x00, 0x08]] = some (0, false, 0, [readConfig]) := by decide

theorem test_get_alert_mode :
    ran .getAlertMode [bytes [0x00, 0x09]] = some (0, false, 1, [readConfig]) := by decide

theorem test_get_alert_resp :
    ran .getAlertResp [bytes [0x06, 0x04]] = some (0, false, 1, [readConfig]) := by decide

theorem test_get_int_clear :
    ran .getIntClear [bytes [0x00, 0xE8]] = some (0, false, 1, [readConfig]) := by decide

/-! ### Steps -/

theorem test_step_runs_the_table_word :
    seen (step (State.reset.withFetchWord 40 0x0294000000)) = some (0, false, 0x1280, []) := by decide

theorem test_step_reserved_opcode :
    seen (step (State.reset.withFetchWord 40 0x2700010000)) = some (6, false, 0, []) := by decide

/-- P2, line 9 (95_test_vectors.md): REFDEV keeps the lock bits that SET_LOCK 0 would clear. -/
theorem test_device_keeps_the_lock :
    ∃ t, exec (.setLock 0) (withDevice [(3, 0xE8)] []) = .next t ∧
    t.trace = [readConfig, writeConfig 0x00 0x28] ∧ t.status = 0 ∧ devReg t.devMem 0x01 = 0x00E8 := ⟨_, rfl, by decide, by decide, by decide⟩

/-- P4, line 5: the second write of SET_WINDOW fails, the upper threshold is written, the lower is not. -/
theorem test_device_partial_window :
    ∃ t, exec (.setWindow 0x0CB2 0x8299) (withDevice [] [.device, .device, bad]) = .next t ∧
    t.status = 4 ∧ devReg t.devMem 0x02 = 0x019C ∧ devReg t.devMem 0x03 = 0 := ⟨_, rfl, by decide, by decide, by decide⟩

/-- P4, line 2: no device answers at another address. -/
theorem test_no_device_there :
    seen (exec .getTemp { withDevice [] [] with devAddr := 0x19 }) =
    some (4, false, 0, [.read 0x19 0x05 2]) := by decide

/-! ### Witnesses for the statements about words and fields -/

theorem witness_UnusedOperandBitsAreIgnored :
    (opcField 0x1000000000 = opcField 0x10FFFFFFFF ∧ opcField 0x1000000000 ∈ [0x10, 0x11, 0x12, 0x16, 0x30, 0x31, 0x32, 0x33,
      0x34, 0x35, 0x36, 0x37] ∧ opcField 0x1000000000 ∉ [0x04, 0x05, 0x14]) ∧
    (opcField 0x1300030000 = opcField 0x130003FFFF ∧ opaField 0x1300030000 = opaField 0x130003FFFF ∧
      opcField 0x1300030000 ∉ [0x04, 0x05, 0x14]) ∧
    opbField 0x1405000480 = opbField 0x1405000480 := by decide

theorem witness_DecodeRefusesExactlyReservedOpcodes :
    (∀ o ∈ [0x00, 0x06, 0x0F, 0x18, 0x1F, 0x27, 0x2F, 0x38, 0xFF], reservedOpcode (opcField (cmdWord o 1 2))) ∧
    ∀ o ∈ [0x01, 0x05, 0x10, 0x17, 0x20, 0x26, 0x30, 0x37], ¬ reservedOpcode (opcField (cmdWord o 1 2)) := by
  unfold reservedOpcode; decide

theorem witness_AssembledLiteralHasItsValue :
    asmTop (.temp true 255 99) = some 0xFFE3 ∧ asmTop (.temp false 0 0) = some 0x0000 ∧ topVal 0xFFE3 = -25599 := by decide

theorem witness_DecimalBinFollowsItsTable :
    decimalBin 0 = 0 ∧ decimalBin 1 = 4 ∧ decimalBin 25 = 4 ∧ decimalBin 26 = 8 ∧ decimalBin 49 = 8 ∧ decimalBin 50 = 12 ∧
    decimalBin 99 = 12 ∧ decimalBin 127 = 12 := by decide

theorem witness_DecTIsTheLiteralFormula :
    (0x1000 : Word).getLsbD 12 = true ∧ (decT 0x1000).toNat = 4096 ∧ (0x1FFF : Word).getLsbD 12 = true ∧
    (decT 0x1FFF).toNat = 1 ∧ (0x0FFF : Word).getLsbD 12 = false ∧ (decT 0x0FFF).toNat = 4095 ∧
    (0xE104 : Word).extractLsb' 0 13 = (0x0104 : Word).extractLsb' 0 13 := by decide

theorem witness_FieldTableIsAsGiven : fieldOfId 8 = none ∧ CfgField.powerMode ≠ CfgField.intClear := by decide

theorem witness_FieldFunctionsObeyTheirLaws :
    CfgField.hysteresis ≠ CfgField.lockState ∧ (3 : Word).toNat < 2 ^ fieldWidth .hysteresis ∧
    (0 : Word).toNat < 2 ^ fieldWidth .hysteresis := by decide

theorem witness_MergeKeepsEveryOtherBit :
    (3 : Word).toNat < 2 ^ fieldWidth .lockState ∧ (fieldMask .lockState).getLsbD 5 = false ∧
    (fieldMask .lockState).getLsbD 8 = false ∧ (fieldMask .lockState).getLsbD 15 = false := by decide

/-- R121: both signs, the fractions 0, 25, and the ends of the ranges of near round trips. -/
theorem witness_DecodingAnEncodedThreshold :
    (99 : BitVec 7).toNat ≤ 99 ∧ (decT (encT 0 10 1)).toNat = 0x00A4 ∧ (decT (encT 1 40 0)).toNat = 0x0D80 ∧
    25 * (decT (encT 0 10 25)).toNat = 4 * 1025 ∧
    ∀ F ∈ [(19 : BitVec 7), 25, 44, 49, 69, 81], 25 * (decT (encT 0 10 F)).toNat ≤ 4 * (1000 + F.toNat) + 25 ∧
      4 * (1000 + F.toNat) ≤ 25 * (decT (encT 0 10 F)).toNat + 25 := by decide

theorem witness_GapArithmeticIsBounded :
    topValid 0x7FE3 = true ∧ topValid 0xFFE3 = true ∧ topVal 0x7FE3 - topVal 0xFFE3 = 51198 ∧
    topVal 0xFFE3 - topVal 0x7FE3 = -51198 := by decide

theorem witness_EncodedWindowKeepsItsGap :
    topSign 0x0500 = 0 ∧ topSign 0x0400 = 0 ∧ topValid 0x0500 = true ∧ topValid 0x0400 = true ∧
    topVal 0x0500 - topVal 0x0400 = 200 ∧ (encTop 0x0400).toNat + 32 = (encTop 0x0500).toNat := by decide

/-! ### Witnesses for the statements about steps, acceptance and reset -/

/-- INIT at work: the first answer has not come. -/
def waitingInit : State := { State.reset with opc := 0x10, phase := .rdData, trace := [.read 0x18 0x07 2] }

theorem witness_StepRunsTheDecodedCommand :
    ((ready []).presentFirst 0x1700190000).phase = .idle ∧
    ((ready []).presentFirst 0x1700190000).hostIn = [.command 0x1700190000] ∧
    decode 0x1700190000 = .ok (.setAddr 0x19) ∧ (ready []).hostIn = [] ∧
    waitingInit.phase ≠ .idle ∧ waitingInit.hostIn = [] ∧
    decodeFields waitingInit.opc waitingInit.opa waitingInit.opb = .ok .init :=
  ⟨rfl, rfl, rfl, rfl, by decide, rfl, rfl⟩

theorem witness_CommandIsAcceptedOnlyInIdle :
    (ready []).phase = .idle ∧ (waitingInit.setHostIn [.command 0x1700190000]).phase ≠ .idle ∧
    (waitingInit.setHostIn [.command 0x1700190000]).hostIn = [.command 0x1700190000] ∧
    step (waitingInit.setHostIn [.command 0x1700190000]) = .next waitingInit :=
  ⟨rfl, by decide, rfl, rfl⟩

theorem witness_ReservedOpcodeEndsWithIllegalCommand :
    ((ready []).presentFirst 0xFF00010002).phase = .idle ∧
    ((ready []).presentFirst 0xFF00010002).hostIn = [.command 0xFF00010002] ∧ reservedOpcode (opcField 0xFF00010002) := by
  unfold reservedOpcode; decide

theorem witness_ResetActsInEveryPhase :
    (waitingInit.setHostIn [.reset]).hostIn = [.reset] ∧ step (waitingInit.setHostIn [.reset]) =
      .next { State.reset with trace := [.read 0x18 0x07 2] } := ⟨rfl, rfl⟩

theorem witness_ResponseWordPacksTheTriple :
    ({ ready [] with status := 2, pcr := true, res := 0x8001 } : State).rsp = 0x58001 ∧
    (ready []).phase = .idle ∧ waitingInit.phase ≠ .idle ∧ waitingInit.response = none := by decide

/-! ### Witnesses for the results and sequences: each with the answer and the tests its clause asks for -/

theorem witness_DecTempResult : (ready []).phase = .idle ∧
    exec (.decTemp 0x1000) (ready []) = .next ((ready []).ended 0 false 4096) := ⟨rfl, rfl⟩

theorem witness_EncThrResult : (ready []).phase = .idle ∧ ((0xFFE3 : Word).extractLsb' 0 7).toNat = 99 ∧
    99 < ((0x0564 : Word).extractLsb' 0 7).toNat := by decide

theorem witness_DecFlagsResult : (ready []).phase = .idle ∧
    exec (.decFlags 0xFFFF) (ready []) = .next ((ready []).ended 0 false 7) := ⟨rfl, rfl⟩

theorem witness_CfgGetResult : (ready []).phase = .idle ∧ idOfField .intClear = (7 : Word).toNat ∧ 7 < (8 : Word).toNat ∧
    7 < (0xFFFF : Word).toNat := by decide

theorem witness_CfgPutResult : (ready []).phase = .idle ∧ idOfField .hysteresis = ((0x0103 : Word).extractLsb' 8 8).toNat ∧
    ((0x0103 : Word).extractLsb' 0 8).toNat < 2 ^ fieldWidth .hysteresis ∧
    2 ^ fieldWidth .hysteresis ≤ ((0x0104 : Word).extractLsb' 0 8).toNat ∧ 7 < ((0x0800 : Word).extractLsb' 8 8).toNat := by
  decide

theorem witness_FieldSettersReadGuardValidateWrite :
    (Instr.setHyst 3).setter? = some (.hysteresis, true, 3) ∧ (Instr.setLock 4).setter? = some (.lockState, false, 4) ∧
    ((ready []).issue .rdCfg readConfig).answer readConfig = none ∧
    ((ready [bad]).issue .rdCfg readConfig).answer readConfig = some .error ∧
    ((ready [bytes [0x00, 0x40]]).issue .rdCfg readConfig).answer readConfig = some (.data [0x00, 0x40]) ∧
    (0x0040 : Word).extractLsb' 6 2 ≠ 0 ∧ (0xFF3F : Word).extractLsb' 6 2 = 0 ∧ (3 : Word).toNat < 2 ^ fieldWidth .hysteresis ∧
    2 ^ fieldWidth .lockState ≤ (4 : Word).toNat := by decide

/-- The write of a setter waits, fails, is acknowledged. -/
theorem witness_FieldSettersReadGuardValidateWrite_write :
    seen (exec (.setHyst 3) (ready [bytes [0x00, 0x00]])) = none ∧
    ran (.setHyst 3) [bytes [0x00, 0x00], bad] = some (4, false, 0, [readConfig, writeConfig 0x06 0x00]) ∧
    ran (.setHyst 3) [bytes [0x00, 0x00], ok] = some (0, false, 0, [readConfig, writeConfig 0x06 0x00]) := by decide

theorem witness_ClearIntReadsAndWritesBack :
    ((ready [bytes [0x00, 0x20], ok]).issue .rdCfg readConfig).answer readConfig = some (.data [0x00, 0x20]) ∧
    ran .clearInt [bytes [0x00, 0x20], ok] = some (0, false, 0, [readConfig, writeConfig 0x00 0x20]) ∧
    ran .clearInt [bytes [0x00, 0x20], bad] = some (4, false, 0, [readConfig, writeConfig 0x00 0x20]) ∧
    ran .clearInt [bytes [0x00, 0x20]] = none := by decide

theorem witness_FieldGettersReadAndExtract : Instr.getIntClear.getter? = some .intClear ∧
    ((ready [bytes [0x00, 0xE8]]).issue .rdCfg readConfig).answer readConfig = some (.data [0x00, 0xE8]) ∧
    ran .getHyst [bad] = some (4, false, 0, [readConfig]) ∧ ran .getHyst [] = none := by decide

theorem witness_InitComparesBothIdentities :
    (0x05 : Byte) ≠ (ready []).params.expectedDeviceId ∧ (0x04 : Byte) = (ready []).params.expectedDeviceId ∧
    ran .init [bytes [0x04, 0xFF], bytes [0x00, 0x53]] =
      some (5, false, 0, [.read 0x18 0x07 2, .read 0x18 0x06 2]) ∧
    ran .init [bytes [0x04, 0xFF], bytes [0xFF, 0x54]] =
      some (0, false, 1, [.read 0x18 0x07 2, .read 0x18 0x06 2]) ∧
    ran .init [bytes [0x04, 0x00], bad] = some (4, false, 0, [.read 0x18 0x07 2, .read 0x18 0x06 2]) ∧
    ran .init [bytes [0x04, 0x00]] = none := ⟨by decide, by decide, by decide, by decide, by decide, by decide⟩

theorem witness_GetTempReadsAndDecodes :
    ((ready [bytes [0xC1, 0x94]]).issue .rdData (.read 0x18 0x05 2)).answer (.read 0x18 0x05 2) = some (.data [0xC1, 0x94]) ∧
    ran .getTemp [bytes [0xC1, 0x94]] = some (0, false, 0x0194, [.read 0x18 0x05 2]) ∧ ran .getTemp [.silent] = none := by
  decide

theorem witness_GetFlagsReadsTheTopBits :
    ((ready [bytes [0xC1, 0x94]]).issue .rdData (.read 0x18 0x05 2)).answer (.read 0x18 0x05 2) = some (.data [0xC1, 0x94]) ∧
    ran .getFlags [bad] = some (4, false, 0, [.read 0x18 0x05 2]) := by decide

theorem witness_SetResolutionWritesOneByte : 3 < (4 : Word).toNat ∧ (3 : Word).toNat ≤ 3 ∧
    ran (.setResolution 0) [ok] = some (0, false, 0, [.write 0x18 0x08 [0x00]]) ∧
    ran (.setResolution 3) [bad] = some (4, false, 0, [.write 0x18 0x08 [0x03]]) ∧ ran (.setResolution 3) [] = none := by
  decide

/-- P3, line 6: a window across zero; and each test at its edge. -/
theorem witness_SetWindowTestsThenWritesBoth :
    ran (.setWindow 0x0080 0x8080) [bytes [0x00, 0x00], ok, ok] =
      some (0, false, 0, [readConfig, .write 0x18 0x02 [0x00, 0x10], .write 0x18 0x03 [0x10, 0x10]]) ∧
    ran (.setWindow 0x0500 0x0480) [bytes [0x00, 0xC0]] = some (2, true, 0, [readConfig]) ∧
    ran (.setWindow 0x0564 0x0400) [bytes [0x00, 0x00]] = some (1, false, 0, [readConfig]) ∧
    ran (.setWindow 0x0500 0x0464) [bytes [0x00, 0x00]] = some (1, false, 0, [readConfig]) ∧
    topVal 0x0500 - topVal 0x0401 = 199 ∧ topVal 0x0500 - topVal 0x0400 = 200 ∧
    ran (.setWindow 0x0500 0x0400) [bytes [0x00, 0x00], bad] =
      some (4, false, 0, [readConfig, .write 0x18 0x02 [0x00, 0xA0]]) := ⟨by decide, by decide, by decide, by decide, by decide, by decide, by decide⟩

theorem witness_SetCritTestsThenWrites :
    ran (.setCrit 0x1932) [bytes [0x00, 0x40]] = some (2, true, 0, [readConfig]) ∧
    ran (.setCrit 0x1964) [bytes [0x00, 0x00]] = some (1, false, 0, [readConfig]) ∧
    ran (.setCrit 0x1932) [bytes [0xFF, 0x3F], ok] = some (0, false, 0, [readConfig, .write 0x18 0x04 [0x03, 0x2C]]) ∧
    ran (.setCrit 0x1932) [bytes [0x00, 0x00]] = none := ⟨by decide, by decide, by decide, by decide⟩

theorem witness_SetAddrWritesTheBusAddress : (ready []).phase = .idle ∧ (0x7F : Word).toNat ≤ 0x7F ∧
    0x7F < (0x80 : Word).toNat := by decide

/-! ### Witnesses for the whole-machine statements -/

theorem witness_GatedCommandsStopAtTheLock :
    ∀ i ∈ [Instr.setPower 7, .setHyst 2, .setAlertEn 1, .setAlertPol 1, .setAlertMode 1, .setAlertResp 1,
        .setWindow 0x0500 0x0480, .setCrit 0x1E00],
      i.gated = true ∧ ran i [bytes [0x00, 0x80]] = some (2, true, 0, [readConfig]) := by decide

theorem witness_UngatedCommandsNeverReportTheLock : (Instr.setLock 0).gated = false ∧
    ran (.setLock 0) [bytes [0x00, 0xC0], ok] = some (0, false, 0, [readConfig, writeConfig 0x00 0x00]) := by decide

theorem witness_StatusesHaveTheirCauses :
    ran (.setCrit 0x0064) [bytes [0, 0]] = some (1, false, 0, [readConfig]) ∧
    ran (.setWindow 0 0) [bytes [0, 0]] = some (3, false, 0, [readConfig]) ∧
    ran .getLock [bad] = some (4, false, 0, [readConfig]) ∧
    ran .init [bytes [0, 0]] = some (5, false, 0, [.read 0x18 0x07 2]) := ⟨by decide, by decide, by decide, by decide⟩

theorem witness_MarkerSaysRegisterLocked :
    seen (runOperation { ready [bytes [0x00, 0x40]] with opc := 0x20, opa := 1 }) = some (2, true, 0, [readConfig]) ∧
    seen (runOperation { ready [] with opc := 0x27, pcr := true, status := 2 }) = some (6, false, 0, []) := by decide

theorem witness_AbortsBeforeAnyWrite : (ready []).phase = .idle ∧
    ran (.setWindow 0x0500 0x0480) [bytes [0x00, 0x00]] = some (3, false, 0, [readConfig]) := by decide

theorem witness_TransactionsFollowTheList : (ready []).phase = .idle ∧
    ran (.setLock 3) [bytes [0x00, 0x08], ok] =
      some (0, false, 0, (Instr.setLock 3).transactions 0x18 0x0008) := by decide

theorem witness_TransactionsAreFewAndWellFormed : (ready []).phase = .idle ∧
    ran (.setResolution 2) [ok] = some (0, false, 0, [.write 0x18 0x08 [2]]) := by decide

theorem witness_CommandsKeepTheirFrame :
    (∀ a, Instr.getTemp ≠ .setAddr a) ∧ ∃ t, exec .getTemp (ready [bytes [0x01, 0x04]]) = .next t :=
  ⟨fun _ h => (nomatch h), _, rfl⟩

theorem witness_ResponseIsWrittenOnlyAtTheEnd : ∃ t, exec .getTemp (ready []) = .next t ∧ t.phase ≠ .idle :=
  ⟨_, rfl, by decide⟩

theorem witness_BuffersAreWrittenOnlyByTheirReads :
    (∀ A c, BusRequest.read A 0x01 2 ∉ Instr.getTemp.transactions A c) ∧
    (Instr.getLock ≠ .init ∧ Instr.getLock ≠ .getTemp ∧ Instr.getLock ≠ .getFlags) ∧ (Instr.setAddr 1).busFree = true :=
  ⟨fun A c h => by simp [Instr.transactions] at h, by decide, rfl⟩

theorem undisturbed_withDevice (m : Memory) : (withDevice m []).Undisturbed := fun _ _ h => nomatch h

theorem witness_DeviceBytesKeepTheirFrame :
    (withDevice [(3, 0x08)] []).devMem.wf = true ∧ (withDevice [(3, 0x08)] []).Undisturbed ∧
    (∃ t, exec (.setCrit 0x1932) (withDevice [(3, 0x08)] []) = .next t ∧ t.devMem.read 8 = 0x03) ∧
    (3 : Nat) ∉ (Instr.setCrit 0x1932).storedAt :=
  ⟨by decide, undisturbed_withDevice _, ⟨_, rfl, by decide⟩, by decide⟩

theorem witness_OnlyResetAndSetAddrMoveTheBusAddress :
    ∃ t, step ((ready []).presentFirst 0x1700190000) = .next t ∧ t.devAddr ≠ ((ready []).presentFirst 0x1700190000).devAddr :=
  ⟨_, rfl, by decide⟩

/-- A waiting operation that meets the invariant. -/
theorem waitingInit_inv : waitingInit.Inv where
  memory := rfl
  code := by decide
  marker := by decide
  result := by decide
  waiting _ := ⟨.init, .read 0x18 0x07 2, rfl, List.mem_cons_self, rfl, fun h => nomatch h⟩

theorem witness_EveryStepKeepsTheInvariant : waitingInit.Inv ∧ ∃ t, step waitingInit = .next t :=
  ⟨waitingInit_inv, _, rfl⟩

theorem witness_EveryStepGoesOn : waitingInit.Inv := waitingInit_inv

theorem witness_UnansweredOperationWaitsForEver : waitingInit.Inv ∧ waitingInit.phase ≠ .idle ∧ waitingInit.hostIn = [] ∧
    waitingInit.script = [] ∧ waitingInit.refDev = none := ⟨waitingInit_inv, by decide, rfl, rfl, rfl⟩

theorem witness_AnsweredOperationsEnd :
    (ready [ok, bad, ok]).phase = .idle ∧ (ready [ok, bad, ok]).script = [.answer .ack, .answer .error, .answer .ack] ∧
    (withDevice [] []).phase = .idle ∧ (withDevice [] []).script = [] ∧ (withDevice [] []).refDev = some 0x18 := by decide

/-- The silence stands before the first answer; and before INIT's second one, after the first and a change of the device. -/
theorem witness_LateAnswerChangesNothing :
    (∃ t, exec .getTemp (ready [.silent, bytes [0x01, 0x04]]) = .next t ∧ t.phase ≠ .idle ∧
      t.script = [bytes [0x01, 0x04]]) ∧
    ∃ t, exec .init (ready ([bytes [0x04, 0x00], .change 0x06 0x0054] ++ .silent :: [bytes [0x00, 0x53]])) = .next t ∧
      t.phase = .rdId2 ∧ t.script = [bytes [0x00, 0x53]] ∧
      seen (exec .init t) = some (5, false, 0, [.read 0x18 0x07 2, .read 0x18 0x06 2]) :=
  ⟨⟨_, rfl, by decide, rfl⟩, _, rfl, rfl, rfl, by decide⟩

/-- An operation in a phase after its first, with these answers still to come. -/
def inPhase (ph : Phase) (cfg : Word) (es : List BusEvent) : State := { ready es with phase := ph, cfgBuf := cfg }

theorem witness_WaitingOperationsResume_first :
    Instr.init.busPhases.head? = some waitingInit.phase ∧
    (Instr.init.transactions waitingInit.devAddr waitingInit.cfgBuf).head? = some (.read 0x18 0x07 2) ∧
    waitingInit.trace = [] ++ [.read 0x18 0x07 2] ∧ (waitingInit.phase.isWrite = true → Instr.init.wellFormed = true) ∧
    (Instr.setResolution 3).busPhases.head? = some .wr1 ∧ (Instr.setResolution 3).wellFormed = true := by decide

/-- The second read of INIT: late, failed, another byte, the right byte. -/
theorem witness_WaitingOperationsResume_init :
    seen (exec .init (inPhase .rdId2 0 [])) = none ∧
    seen (exec .init (inPhase .rdId2 0 [bad])) = some (4, false, 0, []) ∧
    seen (exec .init (inPhase .rdId2 0 [bytes [0x54, 0x53]])) = some (5, false, 0, []) ∧
    seen (exec .init (inPhase .rdId2 0 [bytes [0x00, 0x54]])) = some (0, false, 1, []) :=
  ⟨by decide, by decide, by decide, by decide⟩

/-- The writes: each acknowledged; SET_WINDOW goes on to its second. -/
theorem witness_WaitingOperationsResume_writes :
    (Instr.setLock 3).setter? = some (.lockState, false, 3) ∧
    seen (exec (.setLock 3) (inPhase .wr1 0x0008 [ok])) = some (0, false, 0, []) ∧
    seen (exec .clearInt (inPhase .wr1 0x00C8 [ok])) = some (0, false, 0, []) ∧
    seen (exec (.setCrit 0x1932) (inPhase .wr1 0x0000 [bad])) = some (4, false, 0, []) ∧
    seen (exec (.setWindow 0x0500 0x0400) (inPhase .wr1 0x0000 [ok, ok])) =
      some (0, false, 0, [.write 0x18 0x03 [0x00, 0x80]]) ∧
    seen (exec (.setWindow 0x0500 0x0400) (inPhase .wr2 0x0000 [bad])) = some (4, false, 0, []) :=
  ⟨by decide, by decide, by decide, by decide, by decide, by decide⟩

theorem witness_EarlierOperationsLeaveNoTrace :
    (ready [bad]).phase = .idle ∧
    (ready [bad]).SameWorld { ready [bad] with status := 2, pcr := true, cfgBuf := 0xFFFF, rdBuf := 7, opc := 0x20 } ∧
    ∃ t, exec .getTemp (ready [bad]) = .next t ∧ t.phase = .idle :=
  ⟨rfl, ⟨rfl, rfl, rfl, rfl, rfl, rfl, rfl⟩, _, rfl, rfl⟩

theorem witness_ReferenceDeviceStoresAndAnswers :
    Memory.wf [(3, 0x40)] = true ∧ 1 ≤ (0x01 : Byte).toNat ∧ (0x07 : Byte).toNat ≤ 7 ∧
    devReg (refDevServe 0x18 (.write 0x18 0x01 [0x00, 0x88]) [(3, 0x40)]).2 0x01 = 0x00C8 ∧
    refDevServe 0x18 (.read 0x19 0x01 2) [(3, 0x40)] = (.error, [(3, 0x40)]) ∧
    refDevServe 0x18 (.read 0x18 0x09 2) [(3, 0x40)] = (.error, [(3, 0x40)]) := by decide

theorem witness_SetThenGetAgainstTheDevice :
    (Instr.setLock 1).setter? = some (.lockState, false, 1) ∧ Instr.getLock.getter? = some .lockState ∧
    (withDevice [(3, 0x80)] []).refDev = some (withDevice [(3, 0x80)] []).devAddr ∧ Memory.wf [(3, 0x80)] = true ∧
    ∃ t, exec (.setLock 1) (withDevice [(3, 0x80)] []) = .next t ∧ t.status = 0 ∧
      seen (exec .getLock t) = some (0, false, 3, [readConfig, writeConfig 0x00 0x40, readConfig]) :=
  ⟨rfl, rfl, rfl, rfl, _, rfl, rfl, by decide⟩

theorem witness_LockIsOneWayInTheDevice :
    ((withDevice [(3, 0xC0)] []).presentFirst 0x2200000000).devMem.wf = true ∧
    ((withDevice [(3, 0xC0)] []).presentFirst 0x2200000000).Undisturbed ∧
    (devReg [(3, 0xC0)] 0x01).getLsbD 6 = true ∧ (devReg [(3, 0xC0)] 0x01).getLsbD 7 = true ∧
    ∃ t, step ((withDevice [(3, 0xC0)] []).presentFirst 0x2200000000) = .next t ∧ t.status = 0 :=
  ⟨rfl, undisturbed_withDevice [], by decide, by decide, _, rfl, rfl⟩

theorem witness_ChangeAfterTheReadIsNotNoticed :
    (Instr.setPower 1).setter? = some (.powerMode, true, 1) ∧
    (withDevice [] [.device, .change 0x01 0x00C0, .device]).script = [.device, .change 0x01 0x00C0, .device] ∧
    (devReg [] 0x01).extractLsb' 6 2 = 0 ∧
    ran (.setPower 1) [.device] = some (4, false, 0, [readConfig]) ∧
    seen (exec (.setPower 1) (withDevice [] [.device, .change 0x01 0x00C0, .device])) =
      some (0, false, 0, [readConfig, writeConfig 0x01 0x00]) := by decide

end Sys2Proof.Tests
end

section
/-! SUPPORT. The sequence of each command as data: a `Plan` is what is still to be asked, written and answered, and
`Instr.planAt` gives the plan of a command in each phase. `exec_eq_enter` ties the plans to `exec`; a statement about
all commands is then an induction over plans. -/

namespace Sys2Proof.Machine

/-- A write of one of the block's registers other than the response. -/
inductive Assign where
  | cfgBuf (w : Word)
  | rdBuf (w : Word)
  | devAddr (a : Addr7)

/-- Carry an assignment out (R23, R25). -/
def State.assign : Assign → State → State
  | .cfgBuf w, s => s.setCfgBuf w
  | .rdBuf w, s => s.setRdBuf w
  | .devAddr a, s => s.setDevAddr a

/-- What CFGBUF holds after the assignment, when it held `cfg` before. -/
@[simp] def Assign.cfgAfter : Assign → Word → Word
  | .cfgBuf w, _ => w
  | .rdBuf _, cfg => cfg
  | .devAddr _, cfg => cfg

@[simp] theorem State.assign_cfgBuf (x : Assign) (s : State) : (s.assign x).cfgBuf = x.cfgAfter s.cfgBuf := by
  cases x <;> rfl
@[simp] theorem State.assign_params (x : Assign) (s : State) : (s.assign x).params = s.params := by cases x <;> rfl
@[simp] theorem State.assign_script (x : Assign) (s : State) : (s.assign x).script = s.script := by cases x <;> rfl

/-- What an operation has still to do: end; assign a register and go on; or enter a phase by asking the collaborator and
go on with the answer. -/
inductive Plan where
  | finish (st : Status) (v : Word)
  | assign (x : Assign) (p : Plan)
  | ask (ph : Phase) (req : Addr7 → BusRequest) (k : PortAnswer → Plan)

/-- Wait for the answer to a request of either kind (R51, R52). -/
def await (req : BusRequest) (k : PortAnswer → State → Result) (s : State) : Result :=
  match s.answer req with
  | none => .next (s.served req)
  | some a => k a (s.served req)

theorem await_none {req : BusRequest} (k : PortAnswer → State → Result) {s : State} (h : s.answer req = none) :
    await req k s = .next (s.served req) := by simp only [await, h]

theorem await_some {req : BusRequest} (k : PortAnswer → State → Result) {s : State} {a : PortAnswer}
    (h : s.answer req = some a) : await req k s = k a (s.served req) := by simp only [await, h]

/-- All a wait can do: wait on, or go on with the answer. -/
theorem await_cases {req : BusRequest} {k : PortAnswer → State → Result} {s t : State} (h : await req k s = .next t) :
    (s.answer req = none ∧ t = s.served req) ∨ ∃ a, s.answer req = some a ∧ k a (s.served req) = .next t := by
  unfold await at h
  split at h
  · next hn => cases h; exact .inl ⟨hn, rfl⟩
  · next a ha => exact .inr ⟨a, ha, h⟩

namespace Plan

/-- Carry a plan out. -/
def run : Plan → State → Result
  | .finish st v, s => .next (s.finish st v)
  | .assign x p, s => p.run (s.assign x)
  | .ask ph req k, s => await (req s.devAddr) (fun a => (k a).run) (s.issue ph (req s.devAddr))

/-- Carry a plan out whose first request has been issued before. -/
def resume : Plan → State → Result
  | .ask _ req k, s => await (req s.devAddr) (fun a => (k a).run) s
  | .finish st v, s => .next (s.finish st v)
  | .assign x p, s => p.run (s.assign x)

/-- From IDLE and CHECK a plan is begun, in the other phases its first request is outstanding (R162). -/
def enter (p : Plan) (s : State) : Result :=
  match s.phase with
  | .idle | .check => p.run s
  | .rdCfg | .rdData | .wr1 | .wr2 | .rdId2 => p.resume s

/-- Read a two-byte register and go on with its word (R51). -/
def read (ph : Phase) (reg : Byte) (k : Word → Plan) : Plan :=
  .ask ph (fun A => .read A reg 2) fun
    | .data bs => k (wordOfBytes bs)
    | .ack | .error => .finish .busError 0

/-- Write a register and go on once it is acknowledged (R52). -/
def write (ph : Phase) (reg : Byte) (bs : List Byte) (p : Plan) : Plan :=
  .ask ph (fun A => .write A reg bs) fun
    | .ack => p
    | .data _ | .error => .finish .busError 0

theorem run_assign (x : Assign) (p : Plan) (s : State) : (assign x p).run s = p.run (s.assign x) := rfl

theorem resume_read (ph : Phase) (reg : Byte) (k : Word → Plan) (s : State) :
    (read ph reg k).resume s = awaitRead (s.readReq reg) (fun w => (k w).run) s := by
  simp only [read, resume, await, awaitRead, State.readReq]
  split
  · next h => simp only [h]
  · next a h => cases a <;> simp only [h] <;> rfl

theorem resume_write (ph : Phase) (reg : Byte) (bs : List Byte) (p : Plan) (s : State) :
    (write ph reg bs p).resume s = awaitWrite (.write s.devAddr reg bs) p.run s := by
  simp only [write, resume, await, awaitWrite]
  split
  · next h => simp only [h]
  · next a h => cases a <;> simp only [h] <;> rfl

theorem run_ite {c : Bool} {p q : Plan} {s : State} :
    (if c then p else q).run s = if c then p.run s else q.run s := by
  split <;> rfl

/-- A plan found in no phase of its command is the fault `phaseOutOfPlace`. -/
def enter? (p? : Option Plan) (s : State) : Result :=
  match p? with
  | some p => p.enter s
  | none => .fault .phaseOutOfPlace

end Plan

/-! ### The plans of the sequences -/

/-- A command without transactions (R110, R186). -/
def checkPlanAt (p : Plan) : Phase → Option Plan
  | .idle | .check => some p
  | .rdCfg | .rdData | .wr1 | .wr2 | .rdId2 => none

/-- Its answer is `v`, or InvalidParameter if its operands are not valid. -/
def Plan.validated (valid : Bool) (v : Word) : Plan :=
  if valid then .finish .ok v else .finish .invalidParameter 0

/-- CFG_GET (R118). -/
def cfgGetPlan (a b : Word) : Plan :=
  match fieldOfId b.toNat with
  | some f => .finish .ok (cfgGet f a)
  | none => .finish .invalidParameter 0

/-- CFG_PUT (R119). -/
def cfgPutPlan (a b : Word) : Plan :=
  match fieldOfId (fidvalId b).toNat with
  | some f =>
    .validated (enumValid f ((fidvalValue b).setWidth 16)) (cfgPut f a ((fidvalValue b).setWidth 16))
  | none => .finish .invalidParameter 0

/-- SET_ADDR (R186). -/
def setAddrPlan (a : Word) : Plan :=
  if addrValid a then .assign (.devAddr (a.setWidth 7)) (.finish .ok 0) else .finish .invalidParameter 0

/-- Steps 5 and 6 of `rmw` (R140). -/
def rmwWritePlan (f : CfgField) (a cfg : Word) : Plan :=
  .write .wr1 Config.regConfig (bytesOfWord (cfgPut f cfg a)) (.finish .ok 0)

/-- `rmw` from step 2 on (R140). -/
def rmwCheckPlan (f : CfgField) (g : Bool) (a cfg : Word) : Plan :=
  if g && locked cfg then .finish .registerLocked 0
  else if !enumValid f a then .finish .invalidParameter 0
  else rmwWritePlan f a cfg

/-- `rmw` from its read on (R140). -/
def rmwPlan (f : CfgField) (g : Bool) (a : Word) : Plan :=
  .read .rdCfg Config.regConfig fun w => .assign (.cfgBuf w) (rmwCheckPlan f g a w)

/-- Where `rmw` stands in each phase (R140, R162). -/
def rmwPlanAt (f : CfgField) (g : Bool) (a cfg : Word) : Phase → Option Plan
  | .idle | .rdCfg => some (rmwPlan f g a)
  | .check => some (rmwCheckPlan f g a cfg)
  | .wr1 => some (rmwWritePlan f a cfg)
  | .rdData | .wr2 | .rdId2 => none

/-- CLEAR_INT from its write on (R152). -/
def clearIntWritePlan (cfg : Word) : Plan :=
  .write .wr1 Config.regConfig (bytesOfWord (clearIntWord cfg)) (.finish .ok 0)

/-- CLEAR_INT from its read on (R152). -/
def clearIntPlan : Plan :=
  .read .rdCfg Config.regConfig fun w => .assign (.cfgBuf w) (clearIntWritePlan w)

/-- Where CLEAR_INT stands in each phase (R152). -/
def clearIntPlanAt (cfg : Word) : Phase → Option Plan
  | .idle | .rdCfg => some clearIntPlan
  | .wr1 => some (clearIntWritePlan cfg)
  | .check | .rdData | .wr2 | .rdId2 => none

/-- `get(f)` from its read on (R153). -/
def getPlan (f : CfgField) : Plan :=
  .read .rdCfg Config.regConfig fun w => .assign (.cfgBuf w) (.finish .ok (cfgGet f w))

/-- Where `get(f)` stands in each phase (R153). -/
def getPlanAt (f : CfgField) (cfg : Word) : Phase → Option Plan
  | .idle | .rdCfg => some (getPlan f)
  | .check => some (.finish .ok (cfgGet f cfg))
  | .rdData | .wr1 | .wr2 | .rdId2 => none

/-- INIT from its second read on (R180). -/
def initPlan2 (ps : Params) : Plan :=
  .read .rdId2 Config.regManufacturerId fun w => .assign (.rdBuf w) <|
    if mfrIdMatches ps w then .finish .ok 1 else .finish .identityMismatch 0

/-- INIT from its first read on (R180). -/
def initPlan (ps : Params) : Plan :=
  .read .rdData Config.regDeviceId fun w => .assign (.rdBuf w) <|
    if devIdMatches ps w then initPlan2 ps else .finish .identityMismatch 0

/-- Where INIT stands in each phase (R180). -/
def initPlanAt (ps : Params) : Phase → Option Plan
  | .idle | .rdData => some (initPlan ps)
  | .rdId2 => some (initPlan2 ps)
  | .rdCfg | .check | .wr1 | .wr2 => none

/-- GET_TEMP and GET_FLAGS, whose answer is `g` of the word read (R181, R182). -/
def tempPlan (g : Word → Word) : Plan :=
  .read .rdData Config.regTemperature fun w => .assign (.rdBuf w) (.finish .ok (g w))

/-- Where they stand in each phase (R181, R182). -/
def tempPlanAt (g : Word → Word) : Phase → Option Plan
  | .idle | .rdData => some (tempPlan g)
  | .rdCfg | .check | .wr1 | .wr2 | .rdId2 => none

/-- SET_RESOLUTION from its one-byte write on (R183). -/
def resWritePlan (a : Word) : Plan := .write .wr1 Config.regResolution [loByte a] (.finish .ok 0)

/-- SET_RESOLUTION from its validation on (R183). -/
def resPlan (a : Word) : Plan := if resValid a then resWritePlan a else .finish .invalidParameter 0

/-- Where SET_RESOLUTION stands in each phase (R183). -/
def resPlanAt (a : Word) : Phase → Option Plan
  | .idle | .check => some (resPlan a)
  | .wr1 => some (resWritePlan a)
  | .rdCfg | .rdData | .wr2 | .rdId2 => none

/-- SET_WINDOW from its second write on (R184). -/
def windowWrite2Plan (l : Word) : Plan :=
  .write .wr2 Config.regTLower (bytesOfWord (encTop l)) (.finish .ok 0)

/-- SET_WINDOW from its first write on (R184). -/
def windowWrite1Plan (u l : Word) : Plan :=
  .write .wr1 Config.regTUpper (bytesOfWord (encTop u)) (windowWrite2Plan l)

/-- SET_WINDOW from its tests on (R184). -/
def windowCheckPlan (u l cfg : Word) : Plan :=
  if locked cfg then .finish .registerLocked 0
  else if !(topValid u && topValid l) then .finish .invalidParameter 0
  else if !gapOk u l then .finish .thresholdRangeError 0
  else windowWrite1Plan u l

/-- SET_WINDOW from its read on (R184). -/
def windowPlan (u l : Word) : Plan :=
  .read .rdCfg Config.regConfig fun w => .assign (.cfgBuf w) (windowCheckPlan u l w)

/-- Where SET_WINDOW stands in each phase (R184). -/
def windowPlanAt (u l cfg : Word) : Phase → Option Plan
  | .idle | .rdCfg => some (windowPlan u l)
  | .check => some (windowCheckPlan u l cfg)
  | .wr1 => some (windowWrite1Plan u l)
  | .wr2 => some (windowWrite2Plan l)
  | .rdData | .rdId2 => none

/-- SET_CRIT from its write on (R185). -/
def critWritePlan (a : Word) : Plan :=
  .write .wr1 Config.regTCrit (bytesOfWord (encTop a)) (.finish .ok 0)

/-- SET_CRIT from its tests on (R185). -/
def critCheckPlan (a cfg : Word) : Plan :=
  if locked cfg then .finish .registerLocked 0
  else if !topValid a then .finish .invalidParameter 0
  else critWritePlan a

/-- SET_CRIT from its read on (R185). -/
def critPlan (a : Word) : Plan :=
  .read .rdCfg Config.regConfig fun w => .assign (.cfgBuf w) (critCheckPlan a w)

/-- Where SET_CRIT stands in each phase (R185). -/
def critPlanAt (a cfg : Word) : Phase → Option Plan
  | .idle | .rdCfg => some (critPlan a)
  | .check => some (critCheckPlan a cfg)
  | .wr1 => some (critWritePlan a)
  | .rdData | .wr2 | .rdId2 => none

end Sys2Proof.Machine

namespace Sys2Proof

open Sys2Proof.Machine

/-- The plan of a command in a phase, with the parameters `ps` and CFGBUF at `cfg`; none in a phase it does not have. -/
def Instr.planAt (ps : Params) (cfg : Word) (ph : Phase) : Instr → Option Plan
  | .decTemp a => checkPlanAt (.finish .ok ((decT a).setWidth 16)) ph
  | .encThr a => checkPlanAt (.validated (topValid a) (encTop a)) ph
  | .decFlags a => checkPlanAt (.finish .ok ((flagBits a).setWidth 16)) ph
  | .cfgGet a b => checkPlanAt (cfgGetPlan a b) ph
  | .cfgPut a b => checkPlanAt (cfgPutPlan a b) ph
  | .init => initPlanAt ps ph
  | .getTemp => tempPlanAt (fun w => (decT w).setWidth 16) ph
  | .getFlags => tempPlanAt (fun w => (flagBits w).setWidth 16) ph
  | .setResolution a => resPlanAt a ph
  | .setWindow u l => windowPlanAt u l cfg ph
  | .setCrit a => critPlanAt a cfg ph
  | .clearInt => clearIntPlanAt cfg ph
  | .setAddr a => checkPlanAt (setAddrPlan a) ph
  | .setPower a => rmwPlanAt .powerMode true a cfg ph
  | .setHyst a => rmwPlanAt .hysteresis true a cfg ph
  | .setLock a => rmwPlanAt .lockState false a cfg ph
  | .setAlertEn a => rmwPlanAt .alertEnable true a cfg ph
  | .setAlertPol a => rmwPlanAt .alertPolarity true a cfg ph
  | .setAlertMode a => rmwPlanAt .alertMode true a cfg ph
  | .setAlertResp a => rmwPlanAt .alertResponse true a cfg ph
  | .getPower => getPlanAt .powerMode cfg ph
  | .getHyst => getPlanAt .hysteresis cfg ph
  | .getLock => getPlanAt .lockState cfg ph
  | .getAlertEn => getPlanAt .alertEnable cfg ph
  | .getAlertPol => getPlanAt .alertPolarity cfg ph
  | .getAlertMode => getPlanAt .alertMode cfg ph
  | .getAlertResp => getPlanAt .alertResponse cfg ph
  | .getIntClear => getPlanAt .intClear cfg ph

namespace Machine

/-! ### The plans are what the sequences do -/

theorem checkOnly_eq {k : State → Result} {p : Plan} (hk : ∀ s, k (s.enter .check) = p.run s) (s : State) :
    checkOnly k s = Plan.enter? (checkPlanAt p s.phase) s := by
  unfold checkOnly
  cases hp : s.phase <;> simp only [checkPlanAt, Plan.enter?, Plan.enter, hp, hk]

theorem execEncThr_eq (a : Word) (s : State) :
    execEncThr a s = Plan.enter? (checkPlanAt (.validated (topValid a) (encTop a)) s.phase) s :=
  checkOnly_eq (fun _ => by rw [Plan.validated, Plan.run_ite]; rfl) s

theorem execCfgGet_eq (a b : Word) (s : State) :
    execCfgGet a b s = Plan.enter? (checkPlanAt (cfgGetPlan a b) s.phase) s :=
  checkOnly_eq (fun _ => by cases h : fieldOfId b.toNat <;> simp only [cfgGetPlan, h] <;> rfl) s

theorem execCfgPut_eq (a b : Word) (s : State) :
    execCfgPut a b s = Plan.enter? (checkPlanAt (cfgPutPlan a b) s.phase) s := by
  refine checkOnly_eq (fun _ => ?_) s
  cases h : fieldOfId (fidvalId b).toNat <;> simp only [cfgPutPlan, h, Plan.validated, Plan.run_ite] <;> rfl

theorem execSetAddr_eq (a : Word) (s : State) :
    execSetAddr a s = Plan.enter? (checkPlanAt (setAddrPlan a) s.phase) s :=
  checkOnly_eq (fun _ => by rw [setAddrPlan, Plan.run_ite]; rfl) s

theorem rmwWrite_eq (f : CfgField) (a : Word) (s : State) :
    rmwWrite f a s = (rmwWritePlan f a s.cfgBuf).resume s := by
  rw [rmwWritePlan, Plan.resume_write]; rfl

theorem rmwCheck_eq (f : CfgField) (g : Bool) (a : Word) (s : State) :
    rmwCheck f g a s = (rmwCheckPlan f g a s.cfgBuf).run s := by
  rw [rmwCheckPlan, Plan.run_ite, Plan.run_ite, rmwCheck, rmwWrite_eq]; rfl

theorem rmwRead_eq (f : CfgField) (g : Bool) (a : Word) (s : State) :
    rmwRead f g a s = (rmwPlan f g a).resume s := by
  simp only [rmwRead, rmwPlan, Plan.resume_read, rmwCheck_eq]; rfl

theorem rmw_eq (f : CfgField) (g : Bool) (a : Word) (s : State) :
    rmw f g a s = Plan.enter? (rmwPlanAt f g a s.cfgBuf s.phase) s := by
  unfold rmw
  cases hp : s.phase <;>
    simp only [rmwPlanAt, Plan.enter?, Plan.enter, hp, rmwRead_eq, rmwCheck_eq, rmwWrite_eq]
  rfl

theorem clearIntWrite_eq (s : State) : clearIntWrite s = (clearIntWritePlan s.cfgBuf).resume s := by
  rw [clearIntWritePlan, Plan.resume_write]; rfl

theorem clearIntRead_eq (s : State) : clearIntRead s = clearIntPlan.resume s := by
  simp only [clearIntRead, clearIntPlan, Plan.resume_read, clearIntWrite_eq]; rfl

theorem execClearInt_eq (s : State) :
    execClearInt s = Plan.enter? (clearIntPlanAt s.cfgBuf s.phase) s := by
  unfold execClearInt
  cases hp : s.phase <;>
    simp only [clearIntPlanAt, Plan.enter?, Plan.enter, hp, clearIntRead_eq, clearIntWrite_eq]
  rfl

theorem getRead_eq (f : CfgField) (s : State) : getRead f s = (getPlan f).resume s := by
  rw [getPlan, Plan.resume_read]; rfl

theorem getField_eq (f : CfgField) (s : State) :
    getField f s = Plan.enter? (getPlanAt f s.cfgBuf s.phase) s := by
  unfold getField
  cases hp : s.phase <;> simp only [getPlanAt, Plan.enter?, Plan.enter, hp, getRead_eq] <;> rfl

theorem awaitRead_congr {req : BusRequest} {k k' : Word → State → Result} {s : State}
    (h : ∀ w, k w (s.served req) = k' w (s.served req)) : awaitRead req k s = awaitRead req k' s := by
  unfold awaitRead
  split
  · rfl
  · exact h _
  · rfl
  · rfl

theorem initRead2_eq (s : State) : initRead2 s = (initPlan2 s.params).resume s := by
  rw [initPlan2, Plan.resume_read]
  refine awaitRead_congr fun w => ?_
  rw [Plan.run_assign, Plan.run_ite]; rfl

theorem initRead1_eq (s : State) : initRead1 s = (initPlan s.params).resume s := by
  rw [initPlan, Plan.resume_read]
  refine awaitRead_congr fun w => ?_
  rw [Plan.run_assign, Plan.run_ite, initRead2_eq]; rfl

theorem execInit_eq (s : State) : execInit s = Plan.enter? (initPlanAt s.params s.phase) s := by
  unfold execInit
  cases hp : s.phase <;>
    simp only [initPlanAt, Plan.enter?, Plan.enter, hp, initRead1_eq, initRead2_eq]
  rfl

theorem tempRead_eq (g : Word → Word) (s : State) : tempRead g s = (tempPlan g).resume s := by
  rw [tempPlan, Plan.resume_read]; rfl

theorem readTemperature_eq (g : Word → Word) (s : State) :
    readTemperature g s = Plan.enter? (tempPlanAt g s.phase) s := by
  unfold readTemperature
  cases hp : s.phase <;> simp only [tempPlanAt, Plan.enter?, Plan.enter, hp, tempRead_eq]
  rfl

theorem resWrite_eq (a : Word) (s : State) : resWrite a s = (resWritePlan a).resume s := by
  rw [resWritePlan, Plan.resume_write]; rfl

theorem resCheck_eq (a : Word) (s : State) : resCheck a s = (resPlan a).run s := by
  rw [resPlan, Plan.run_ite, resCheck, resWrite_eq]; rfl

theorem execSetResolution_eq (a : Word) (s : State) :
    execSetResolution a s = Plan.enter? (resPlanAt a s.phase) s := by
  unfold execSetResolution
  cases hp : s.phase <;> simp only [resPlanAt, Plan.enter?, Plan.enter, hp, resCheck_eq, resWrite_eq]

theorem windowWrite2_eq (l : Word) (s : State) : windowWrite2 l s = (windowWrite2Plan l).resume s := by
  rw [windowWrite2Plan, Plan.resume_write]; rfl

theorem windowWrite1_eq (u l : Word) (s : State) : windowWrite1 u l s = (windowWrite1Plan u l).resume s := by
  simp only [windowWrite1, windowWrite1Plan, Plan.resume_write, windowWrite2_eq]; rfl

theorem windowCheck_eq (u l : Word) (s : State) : windowCheck u l s = (windowCheckPlan u l s.cfgBuf).run s := by
  rw [windowCheckPlan, Plan.run_ite, Plan.run_ite, Plan.run_ite, windowCheck, windowWrite1_eq]; rfl

theorem windowRead_eq (u l : Word) (s : State) : windowRead u l s = (windowPlan u l).resume s := by
  simp only [windowRead, windowPlan, Plan.resume_read, windowCheck_eq]; rfl

theorem execSetWindow_eq (u l : Word) (s : State) :
    execSetWindow u l s = Plan.enter? (windowPlanAt u l s.cfgBuf s.phase) s := by
  unfold execSetWindow
  cases hp : s.phase <;> simp only [windowPlanAt, Plan.enter?, Plan.enter, hp, windowRead_eq, windowCheck_eq,
    windowWrite1_eq, windowWrite2_eq]
  rfl

theorem critWrite_eq (a : Word) (s : State) : critWrite a s = (critWritePlan a).resume s := by
  rw [critWritePlan, Plan.resume_write]; rfl

theorem critCheck_eq (a : Word) (s : State) : critCheck a s = (critCheckPlan a s.cfgBuf).run s := by
  rw [critCheckPlan, Plan.run_ite, Plan.run_ite, critCheck, critWrite_eq]; rfl

theorem critRead_eq (a : Word) (s : State) : critRead a s = (critPlan a).resume s := by
  simp only [critRead, critPlan, Plan.resume_read, critCheck_eq]; rfl

theorem execSetCrit_eq (a : Word) (s : State) :
    execSetCrit a s = Plan.enter? (critPlanAt a s.cfgBuf s.phase) s := by
  unfold execSetCrit
  cases hp : s.phase <;>
    simp only [critPlanAt, Plan.enter?, Plan.enter, hp, critRead_eq, critCheck_eq, critWrite_eq]
  rfl

/-- A command does what its plan says. -/
theorem exec_eq_enter (i : Instr) (s : State) : exec i s = Plan.enter? (i.planAt s.params s.cfgBuf s.phase) s := by
  cases i with
  | decTemp a => exact checkOnly_eq (fun _ => rfl) s
  | encThr a => exact execEncThr_eq a s
  | decFlags a => exact checkOnly_eq (fun _ => rfl) s
  | cfgGet a b => exact execCfgGet_eq a b s
  | cfgPut a b => exact execCfgPut_eq a b s
  | init => exact execInit_eq s
  | getTemp => exact readTemperature_eq _ s
  | getFlags => exact readTemperature_eq _ s
  | setResolution a => exact execSetResolution_eq a s
  | setWindow u l => exact execSetWindow_eq u l s
  | setCrit a => exact execSetCrit_eq a s
  | clearInt => exact execClearInt_eq s
  | setAddr a => exact execSetAddr_eq a s
  | setPower | setHyst | setLock | setAlertEn | setAlertPol | setAlertMode | setAlertResp => exact rmw_eq _ _ _ s
  | getPower | getHyst | getLock | getAlertEn | getAlertPol | getAlertMode | getAlertResp | getIntClear =>
    exact getField_eq _ s

/-! ### Entering a plan -/

/-- A command that answers a next state has a plan in its phase, and carries it out. -/
theorem exec_planned {i : Instr} {s t : State} (h : exec i s = .next t) :
    ∃ p, i.planAt s.params s.cfgBuf s.phase = some p ∧ p.enter s = .next t := by
  rw [exec_eq_enter] at h
  cases hp : i.planAt s.params s.cfgBuf s.phase with
  | none => rw [hp] at h; cases h
  | some p => rw [hp] at h; exact ⟨p, rfl, h⟩

/-- From IDLE and CHECK a command begins its plan. -/
theorem exec_begins {i : Instr} {s : State} {p : Plan} (hs : s.phase = .idle ∨ s.phase = .check)
    (hp : i.planAt s.params s.cfgBuf s.phase = some p) : exec i s = p.run s := by
  rw [exec_eq_enter, hp, Plan.enter?, Plan.enter]
  obtain h | h := hs <;> rw [h]

/-- From the other phases it goes on with its plan. -/
theorem exec_resumes {i : Instr} {s : State} {p : Plan} (hidle : s.phase ≠ .idle) (hcheck : s.phase ≠ .check)
    (hp : i.planAt s.params s.cfgBuf s.phase = some p) : exec i s = p.resume s := by
  rw [exec_eq_enter, hp, Plan.enter?, Plan.enter]
  cases h : s.phase <;> simp_all

/-- A plan entered is begun, or goes on waiting where it waited. -/
theorem Plan.enter_cases {p : Plan} {s t : State} (h : p.enter s = .next t) :
    p.run s = .next t ∨ ∃ ph req k, p = .ask ph req k ∧ s.phase ≠ .idle ∧
      await (req s.devAddr) (fun a => (k a).run) s = .next t := by
  have resumed : s.phase ≠ .idle → p.resume s = .next t → p.run s = .next t ∨ ∃ ph req k, p = .ask ph req k ∧
      s.phase ≠ .idle ∧ await (req s.devAddr) (fun a => (k a).run) s = .next t := by
    intro hph h
    cases p with
    | finish st v => exact .inl h
    | assign x p => exact .inl h
    | ask ph req k => exact .inr ⟨ph, req, k, rfl, hph, h⟩
  unfold enter at h
  cases hp : s.phase <;> simp only [hp] at h resumed
  · exact .inl h
  · exact resumed (by simp) h
  · exact .inl h
  all_goals exact resumed (by simp) h

end Machine

end Sys2Proof
end

section
/-! SUPPORT. What holds at every request of a plan, and what the plan of a command looks like: nine shapes for the 28
commands. -/

namespace Sys2Proof.Machine.Plan

/-- A claim about each request of a plan: the value of CFGBUF, the phase, the request, and the plan from it on. -/
abbrev Claim := Word → Phase → (Addr7 → BusRequest) → Plan → Prop

/-- The claim `N` holds at every request of the plan, when CFGBUF starts at `cfg`. -/
def Every (N : Claim) : Word → Plan → Prop
  | _, .finish _ _ => True
  | cfg, .assign x p => p.Every N (x.cfgAfter cfg)
  | cfg, .ask ph req k => N cfg ph req (.ask ph req k) ∧ ∀ a, (k a).Every N cfg

variable {N : Claim} {cfg : Word}

@[simp] theorem every_finish (st : Status) (v : Word) : (finish st v).Every N cfg := trivial

@[simp] theorem every_assign (x : Assign) (p : Plan) : (assign x p).Every N cfg ↔ p.Every N (x.cfgAfter cfg) := Iff.rfl

@[simp] theorem every_read (ph : Phase) (reg : Byte) (k : Word → Plan) :
    (read ph reg k).Every N cfg ↔
      N cfg ph (fun A => .read A reg 2) (read ph reg k) ∧ ∀ bs, (k (wordOfBytes bs)).Every N cfg := by
  refine and_congr Iff.rfl ⟨fun h bs => h (.data bs), fun h a => ?_⟩
  cases a with
  | data bs => exact h bs
  | ack => trivial
  | error => trivial

@[simp] theorem every_write (ph : Phase) (reg : Byte) (bs : List Byte) (p : Plan) :
    (write ph reg bs p).Every N cfg ↔
      N cfg ph (fun A => .write A reg bs) (write ph reg bs p) ∧ p.Every N cfg := by
  refine and_congr Iff.rfl ⟨fun h => h .ack, fun h a => ?_⟩
  cases a with
  | data _ => trivial
  | ack => exact h
  | error => trivial

@[simp] theorem every_ite {c : Prop} [Decidable c] {p q : Plan} :
    (if c then p else q).Every N cfg ↔ (c → p.Every N cfg) ∧ (¬ c → q.Every N cfg) := by
  split <;> simp [*]

end Sys2Proof.Machine.Plan

namespace Sys2Proof

open Sys2Proof.Machine

theorem Instr.planAt_setter {i : Instr} {f : CfgField} {g : Bool} {a : Word} (h : i.setter? = some (f, g, a))
    (ps : Params) (cfg : Word) (ph : Phase) : i.planAt ps cfg ph = rmwPlanAt f g a cfg ph := by
  cases i <;> simp only [Instr.setter?, Option.some.injEq, Prod.mk.injEq, reduceCtorEq] at h <;>
    (obtain ⟨rfl, rfl, rfl⟩ := h; rfl)

theorem Instr.planAt_getter {i : Instr} {f : CfgField} (h : i.getter? = some f)
    (ps : Params) (cfg : Word) (ph : Phase) : i.planAt ps cfg ph = getPlanAt f cfg ph := by
  cases i <;> simp only [Instr.getter?, Option.some.injEq, reduceCtorEq] at h <;> (subst h; rfl)

theorem checkPlanAt_eq_some {p q : Plan} {ph : Phase} (h : checkPlanAt q ph = some p) : q = p := by
  cases ph <;> cases h <;> rfl

/-- A command without transactions answers at once; SET_ADDR writes DEV_ADDR before. -/
theorem Instr.planAt_busFree {i : Instr} (hi : i.busFree = true) {ps : Params} {cfg : Word} {ph : Phase} {p : Plan}
    (h : i.planAt ps cfg ph = some p) :
    (∃ st v, p = .finish st v) ∨ ∃ a, p = .assign (.devAddr a) (.finish .ok 0) := by
  cases i <;> simp only [Instr.busFree, Bool.false_eq_true] at hi <;> obtain rfl := checkPlanAt_eq_some h
  case decTemp | decFlags => exact .inl ⟨_, _, rfl⟩
  case encThr => unfold Plan.validated; split <;> exact .inl ⟨_, _, rfl⟩
  case cfgGet => unfold cfgGetPlan; split <;> exact .inl ⟨_, _, rfl⟩
  case cfgPut =>
    unfold cfgPutPlan Plan.validated
    split
    · split <;> exact .inl ⟨_, _, rfl⟩
    · exact .inl ⟨_, _, rfl⟩
  case setAddr =>
    unfold setAddrPlan
    split
    · exact .inr ⟨_, rfl⟩
    · exact .inl ⟨_, _, rfl⟩

/-- Nothing is asked by a command without transactions. -/
theorem Instr.every_busFree {i : Instr} (hi : i.busFree = true) {ps : Params} {cfg : Word} {ph : Phase} {p : Plan}
    (h : i.planAt ps cfg ph = some p) (N : Plan.Claim) : p.Every N cfg := by
  obtain ⟨st, v, rfl⟩ | ⟨a, rfl⟩ := Instr.planAt_busFree hi h <;> trivial

/-- The shapes of the 28 commands: what holds of each shape holds of every command. -/
theorem Instr.cases_shape {P : Instr → Prop} (busFree : ∀ i, i.busFree = true → P i)
    (setter : ∀ i f g a, i.setter? = some (f, g, a) → P i) (getter : ∀ i f, i.getter? = some f → P i)
    (init : P .init) (temp : ∀ i, i = .getTemp ∨ i = .getFlags → P i) (setResolution : ∀ a, P (.setResolution a))
    (setWindow : ∀ u l, P (.setWindow u l)) (setCrit : ∀ a, P (.setCrit a)) (clearInt : P .clearInt) :
    ∀ i, P i := by
  intro i
  cases i with
  | decTemp | encThr | decFlags | cfgGet | cfgPut | setAddr => exact busFree _ rfl
  | setPower | setHyst | setLock | setAlertEn | setAlertPol | setAlertMode | setAlertResp => exact setter _ _ _ _ rfl
  | getPower | getHyst | getLock | getAlertEn | getAlertPol | getAlertMode | getAlertResp | getIntClear =>
    exact getter _ _ rfl
  | init => exact init
  | getTemp => exact temp _ (.inl rfl)
  | getFlags => exact temp _ (.inr rfl)
  | setResolution a => exact setResolution a
  | setWindow u l => exact setWindow u l
  | setCrit a => exact setCrit a
  | clearInt => exact clearInt

theorem Instr.planAt_temp {i : Instr} (h : i = .getTemp ∨ i = .getFlags) :
    ∃ g, ∀ ps cfg ph, i.planAt ps cfg ph = tempPlanAt g ph := by
  obtain rfl | rfl := h
  · exact ⟨_, fun _ _ _ => rfl⟩
  · exact ⟨_, fun _ _ _ => rfl⟩

namespace Machine

/-- The plan of `i` in the phase of each request is the plan from that request on: an operation left waiting goes on
where it stood. -/
def Rejoins (i : Instr) (ps : Params) : Plan.Claim := fun cfg ph _ p =>
  ph ≠ .idle ∧ ph ≠ .check ∧ i.planAt ps cfg ph = some p

theorem planAt_rejoins (ps : Params) (i : Instr) :
    ∀ (cfg : Word) (ph : Phase) (p : Plan), i.planAt ps cfg ph = some p → p.Every (Rejoins i ps) cfg := by
  induction i using Instr.cases_shape with
  | busFree i hi =>
    intro cfg ph p h
    exact Instr.every_busFree hi h _
  | setter i f g a hi =>
    intro cfg ph p h
    rw [Instr.planAt_setter hi] at h
    cases ph <;> cases h <;>
      simp [rmwPlan, rmwCheckPlan, rmwWritePlan, Rejoins, Instr.planAt_setter hi, rmwPlanAt]
  | getter i f hi =>
    intro cfg ph p h
    rw [Instr.planAt_getter hi] at h
    cases ph <;> cases h <;> simp [getPlan, Rejoins, Instr.planAt_getter hi, getPlanAt]
  | init =>
    intro cfg ph p h
    cases ph <;> cases h <;> simp [initPlan, initPlan2, Rejoins, Instr.planAt, initPlanAt]
  | temp i hi =>
    intro cfg ph p h
    obtain ⟨g, hg⟩ := Instr.planAt_temp hi
    rw [hg] at h
    cases ph <;> cases h <;> simp [tempPlan, Rejoins, hg, tempPlanAt]
  | setResolution a =>
    intro cfg ph p h
    cases ph <;> cases h <;> simp [resPlan, resWritePlan, Rejoins, Instr.planAt, resPlanAt]
  | setWindow u l =>
    intro cfg ph p h
    cases ph <;> cases h <;>
      simp [windowPlan, windowCheckPlan, windowWrite1Plan, windowWrite2Plan, Rejoins, Instr.planAt, windowPlanAt]
  | setCrit a =>
    intro cfg ph p h
    cases ph <;> cases h <;> simp [critPlan, critCheckPlan, critWritePlan, Rejoins, Instr.planAt, critPlanAt]
  | clearInt =>
    intro cfg ph p h
    cases ph <;> cases h <;> simp [clearIntPlan, clearIntWritePlan, Rejoins, Instr.planAt, clearIntPlanAt]

end Machine
end Sys2Proof
end

section
/-! SUPPORT. A waiting operation: where it waits, what it has issued, and what it has tested. -/

namespace Sys2Proof.Machine

/-- The tests of `i` are passed when CFGBUF is `cfg`. -/
def Cleared (i : Instr) (cfg : Word) : Prop := ∀ s : State, s.cfgBuf = cfg → s.mayWrite i

/-- Each request of `i` stands at the place of its phase in the lists of R162 and R187, a write only after the tests. -/
def InList (i : Instr) : Plan.Claim := fun cfg ph req _ =>
  (∀ A, (ph, req A) ∈ i.busPhases.zip (i.transactions A cfg)) ∧ (ph.isWrite = true → Cleared i cfg)

theorem cleared_setter {i : Instr} {f : CfgField} {g : Bool} {a cfg : Word} (hi : i.setter? = some (f, g, a))
    (hg : g = true → locked cfg = false) (hv : enumValid f a = true) : Cleared i cfg := by
  rintro s rfl
  obtain ⟨-, hgated, hwf, hwin⟩ := setter_facts hi
  exact ⟨fun h => bits_of_unlocked (hg (hgated ▸ h)), hwf.trans hv, fun u l h => absurd h (hwin u l)⟩

theorem cleared_window {u l cfg : Word} (hl : locked cfg = false) (hv : topValid u = true ∧ topValid l = true)
    (hg : gapOk u l = true) : Cleared (.setWindow u l) cfg := by
  rintro s rfl
  refine ⟨fun _ => bits_of_unlocked hl, by simp [Instr.wellFormed, hv], fun u' l' h => ?_⟩
  cases h
  exact (gapOk_iff _ _).1 hg

theorem cleared_crit {a cfg : Word} (hl : locked cfg = false) (hv : topValid a = true) : Cleared (.setCrit a) cfg := by
  rintro s rfl
  exact ⟨fun _ => bits_of_unlocked hl, hv, by simp⟩

theorem cleared_clearInt (cfg : Word) : Cleared .clearInt cfg :=
  fun _ _ => ⟨by simp [Instr.gated], rfl, by simp⟩

theorem cleared_resolution {a cfg : Word} (hv : resValid a = true) : Cleared (.setResolution a) cfg :=
  fun _ _ => ⟨by simp [Instr.gated], hv, by simp⟩

section Sequences

variable {i : Instr} {f : CfgField} {g : Bool} {a u l cfg : Word}

theorem rmwWritePlan_inList (hi : i.setter? = some (f, g, a)) (h : Cleared i cfg) :
    (rmwWritePlan f a cfg).Every (InList i) cfg := by
  simp [rmwWritePlan, InList, (setter_facts hi).1, transactions_setter hi, h, Config.regConfig]

theorem rmwCheckPlan_inList (hi : i.setter? = some (f, g, a)) : (rmwCheckPlan f g a cfg).Every (InList i) cfg := by
  simp only [rmwCheckPlan, Plan.every_ite, Plan.every_finish, implies_true, true_and]
  exact fun hl hv => rmwWritePlan_inList hi (cleared_setter hi (by simpa using hl) (by simpa using hv))

theorem rmwPlan_inList (hi : i.setter? = some (f, g, a)) : (rmwPlan f g a).Every (InList i) cfg := by
  simp only [rmwPlan, Plan.every_read, Plan.every_assign]
  refine ⟨?_, fun _ => rmwCheckPlan_inList hi⟩
  simp [InList, (setter_facts hi).1, transactions_setter hi, Config.regConfig, Phase.isWrite]

theorem windowWrite2Plan_inList (h : Cleared (.setWindow u l) cfg) :
    (windowWrite2Plan l).Every (InList (.setWindow u l)) cfg := by
  simp [windowWrite2Plan, InList, Instr.busPhases, Instr.transactions, h, Config.regTLower]

theorem windowWrite1Plan_inList (h : Cleared (.setWindow u l) cfg) :
    (windowWrite1Plan u l).Every (InList (.setWindow u l)) cfg := by
  simp only [windowWrite1Plan, Plan.every_write, windowWrite2Plan_inList h, and_true]
  simp [InList, Instr.busPhases, Instr.transactions, h, Config.regTUpper]

theorem windowCheckPlan_inList : (windowCheckPlan u l cfg).Every (InList (.setWindow u l)) cfg := by
  simp only [windowCheckPlan, Plan.every_ite, Plan.every_finish, implies_true, true_and]
  exact fun hl hv hg =>
    windowWrite1Plan_inList (cleared_window (by simpa using hl) (by simpa using hv) (by simpa using hg))

theorem windowPlan_inList : (windowPlan u l).Every (InList (.setWindow u l)) cfg := by
  simp only [windowPlan, Plan.every_read, Plan.every_assign]
  refine ⟨?_, fun _ => windowCheckPlan_inList⟩
  simp [InList, Instr.busPhases, Instr.transactions, Config.regConfig, Phase.isWrite]

theorem critWritePlan_inList (h : Cleared (.setCrit a) cfg) : (critWritePlan a).Every (InList (.setCrit a)) cfg := by
  simp [critWritePlan, InList, Instr.busPhases, Instr.transactions, h, Config.regTCrit]

theorem critCheckPlan_inList : (critCheckPlan a cfg).Every (InList (.setCrit a)) cfg := by
  simp only [critCheckPlan, Plan.every_ite, Plan.every_finish, implies_true, true_and]
  exact fun hl hv => critWritePlan_inList (cleared_crit (by simpa using hl) (by simpa using hv))

theorem critPlan_inList : (critPlan a).Every (InList (.setCrit a)) cfg := by
  simp only [critPlan, Plan.every_read, Plan.every_assign]
  refine ⟨?_, fun _ => critCheckPlan_inList⟩
  simp [InList, Instr.busPhases, Instr.transactions, Config.regConfig, Phase.isWrite]

theorem resWritePlan_inList (h : Cleared (.setResolution a) cfg) :
    (resWritePlan a).Every (InList (.setResolution a)) cfg := by
  simp [resWritePlan, InList, Instr.busPhases, Instr.transactions, h, Config.regResolution]

theorem resPlan_inList : (resPlan a).Every (InList (.setResolution a)) cfg := by
  simp only [resPlan, Plan.every_ite, Plan.every_finish, implies_true, and_true]
  exact fun hv => resWritePlan_inList (cleared_resolution hv)

theorem clearIntWritePlan_inList : (clearIntWritePlan cfg).Every (InList .clearInt) cfg := by
  simp [clearIntWritePlan, InList, Instr.busPhases, Instr.transactions, cleared_clearInt, Config.regConfig,
    clearIntWord]

theorem clearIntPlan_inList : clearIntPlan.Every (InList .clearInt) cfg := by
  simp only [clearIntPlan, Plan.every_read, Plan.every_assign]
  refine ⟨?_, fun _ => clearIntWritePlan_inList⟩
  simp [InList, Instr.busPhases, Instr.transactions, Config.regConfig, Phase.isWrite]

theorem getPlan_inList (hi : i.getter? = some f) : (getPlan f).Every (InList i) cfg := by
  simp [getPlan, InList, busPhases_getter hi, transactions_getter hi, Config.regConfig, Phase.isWrite]

theorem initPlan2_inList {ps : Params} : (initPlan2 ps).Every (InList .init) cfg := by
  simp [initPlan2, InList, Instr.busPhases, Instr.transactions, Config.regManufacturerId, Phase.isWrite]

theorem initPlan_inList {ps : Params} : (initPlan ps).Every (InList .init) cfg := by
  simp only [initPlan, Plan.every_read, Plan.every_assign, Plan.every_ite, Plan.every_finish,
    initPlan2_inList, implies_true, and_true]
  simp [InList, Instr.busPhases, Instr.transactions, Config.regDeviceId, Phase.isWrite]

theorem tempPlan_inList {k : Word → Word} (hi : i = .getTemp ∨ i = .getFlags) : (tempPlan k).Every (InList i) cfg := by
  obtain rfl | rfl := hi <;>
    simp [tempPlan, InList, Instr.busPhases, Instr.transactions, Config.regTemperature, Phase.isWrite]

end Sequences

theorem planAt_inList (ps : Params) (i : Instr) :
    ∀ (cfg : Word) (ph : Phase) (p : Plan), i.planAt ps cfg ph = some p → (ph.isWrite = true → Cleared i cfg) →
      p.Every (InList i) cfg := by
  induction i using Instr.cases_shape with
  | busFree i hi =>
    intro cfg ph p h _
    exact Instr.every_busFree hi h _
  | setter i f g a hi =>
    intro cfg ph p h hw
    rw [Instr.planAt_setter hi] at h
    cases ph <;> cases h
    · exact rmwPlan_inList hi
    · exact rmwPlan_inList hi
    · exact rmwCheckPlan_inList hi
    · exact rmwWritePlan_inList hi (hw rfl)
  | getter i f hi =>
    intro cfg ph p h _
    rw [Instr.planAt_getter hi] at h
    cases ph <;> cases h
    · exact getPlan_inList hi
    · exact getPlan_inList hi
    · exact Plan.every_finish _ _
  | init =>
    intro cfg ph p h _
    cases ph <;> cases h
    · exact initPlan_inList
    · exact initPlan_inList
    · exact initPlan2_inList
  | temp i hi =>
    intro cfg ph p h _
    obtain ⟨k, hk⟩ := Instr.planAt_temp hi
    rw [hk] at h
    cases ph <;> cases h <;> exact tempPlan_inList hi
  | setResolution a =>
    intro cfg ph p h hw
    cases ph <;> cases h
    · exact resPlan_inList
    · exact resPlan_inList
    · exact resWritePlan_inList (hw rfl)
  | setWindow u l =>
    intro cfg ph p h hw
    cases ph <;> cases h
    · exact windowPlan_inList
    · exact windowPlan_inList
    · exact windowCheckPlan_inList
    · exact windowWrite1Plan_inList (hw rfl)
    · exact windowWrite2Plan_inList (hw rfl)
  | setCrit a =>
    intro cfg ph p h hw
    cases ph <;> cases h
    · exact critPlan_inList
    · exact critPlan_inList
    · exact critCheckPlan_inList
    · exact critWritePlan_inList (hw rfl)
  | clearInt =>
    intro cfg ph p h _
    cases ph <;> cases h
    · exact clearIntPlan_inList
    · exact clearIntPlan_inList
    · exact clearIntWritePlan_inList

/-- `i` waits in `s` as the invariant says (`State.waitsProperly` for the command in the registers). -/
def State.WaitsIn (i : Instr) (s : State) : Prop :=
  ∃ req, s.Outstanding i req ∧ s.trace.getLast? = some req ∧ (s.phase.isWrite = true → s.mayWrite i)

/-- Serving a request touches nothing that waiting speaks of. -/
theorem waitsIn_served {i : Instr} {s : State} (req : BusRequest) (h : s.WaitsIn i) : (s.served req).WaitsIn i := h

/-- A plan whose requests stand in the lists of `i` ends, or leaves `i` waiting for one of them. -/
theorem Plan.run_endsOrWaitsIn {i : Instr} {t : State} :
    ∀ (p : Plan) (s : State), p.Every (InList i) s.cfgBuf → p.run s = .next t → t.phase = .idle ∨ t.WaitsIn i
  | .finish st v, s, _, h => by cases h; exact .inl rfl
  | .assign x p, s, hp, h => p.run_endsOrWaitsIn (s.assign x) (by simpa using hp) h
  | .ask ph req k, s, ⟨⟨hlist, hclear⟩, hk⟩, h => by
    have hw : (s.issue ph (req s.devAddr)).WaitsIn i :=
      ⟨req s.devAddr, hlist _, by simp, fun hph => hclear hph _ rfl⟩
    obtain ⟨-, rfl⟩ | ⟨a, -, h⟩ := await_cases h
    · exact .inr hw
    · exact (k a).run_endsOrWaitsIn (State.served _ (s.issue ph _)) (hk a) h

/-- A command in IDLE, or one that waits properly, ends or waits properly. -/
theorem exec_endsOrWaitsIn {i : Instr} {s t : State} (hw : s.phase ≠ .idle → s.WaitsIn i) (h : exec i s = .next t) :
    t.phase = .idle ∨ t.WaitsIn i := by
  obtain ⟨p, hp, h⟩ := exec_planned h
  have hin : p.Every (InList i) s.cfgBuf := by
    refine planAt_inList _ i _ _ p hp fun hph u hu => ?_
    obtain ⟨req, -, -, hm⟩ := hw (by intro hi; rw [hi] at hph; cases hph)
    have hm := hm hph
    rwa [State.mayWrite, ← hu] at hm
  obtain h | ⟨ph, req, k, rfl, hne, h⟩ := Plan.enter_cases h
  · exact p.run_endsOrWaitsIn s hin h
  · obtain ⟨-, rfl⟩ | ⟨a, -, h⟩ := await_cases h
    · exact .inr (hw hne)
    · exact (k a).run_endsOrWaitsIn (s.served _) (hin.2 a) h

end Sys2Proof.Machine
end

section
/-! SUPPORT. Frames: what no command changes, what only its reads and writes change. -/

namespace Sys2Proof.Machine

/-- What no command changes (R20, R21): the command registers, the parameters, the host's list, where the reference
device stands, and the transactions issued before. -/
structure State.SameFrame (s t : State) : Prop where
  opc : t.opc = s.opc
  opa : t.opa = s.opa
  opb : t.opb = s.opb
  params : t.params = s.params
  hostIn : t.hostIn = s.hostIn
  refDev : t.refDev = s.refDev
  trace : s.trace <+: t.trace

theorem State.SameFrame.trans {a b c : State} (h : a.SameFrame b) (h' : b.SameFrame c) : a.SameFrame c where
  opc := h'.opc.trans h.opc
  opa := h'.opa.trans h.opa
  opb := h'.opb.trans h.opb
  params := h'.params.trans h.params
  hostIn := h'.hostIn.trans h.hostIn
  refDev := h'.refDev.trans h.refDev
  trace := h.trace.trans h'.trace

theorem closed_sameFrame (W : List Byte) : Closed W State.SameFrame where
  trans := State.SameFrame.trans
  raise _ _ := ⟨rfl, rfl, rfl, rfl, rfl, rfl, List.prefix_rfl⟩
  done _ _ := ⟨rfl, rfl, rfl, rfl, rfl, rfl, List.prefix_rfl⟩
  enter _ _ := ⟨rfl, rfl, rfl, rfl, rfl, rfl, List.prefix_rfl⟩
  issueRead _ _ _ := ⟨rfl, rfl, rfl, rfl, rfl, rfl, List.prefix_append _ _⟩
  issueWrite _ _ _ _ _ _ := ⟨rfl, rfl, rfl, rfl, rfl, rfl, List.prefix_append _ _⟩
  issueByte _ _ _ _ := ⟨rfl, rfl, rfl, rfl, rfl, rfl, List.prefix_append _ _⟩
  servedRead _ _ := ⟨rfl, rfl, rfl, rfl, rfl, rfl, List.prefix_rfl⟩
  servedWrite _ _ _ _ _ := ⟨rfl, rfl, rfl, rfl, rfl, rfl, List.prefix_rfl⟩
  servedByte _ _ _ := ⟨rfl, rfl, rfl, rfl, rfl, rfl, List.prefix_rfl⟩
  cfgBuf _ _ := ⟨rfl, rfl, rfl, rfl, rfl, rfl, List.prefix_rfl⟩
  rdBuf _ _ := ⟨rfl, rfl, rfl, rfl, rfl, rfl, List.prefix_rfl⟩

theorem exec_sameFrame {i : Instr} {s t : State} (h : exec i s = .next t) : s.SameFrame t :=
  exec_closed (closed_sameFrame _) (fun _ _ _ _ => ⟨rfl, rfl, rfl, rfl, rfl, rfl, List.prefix_rfl⟩) h

theorem closed_devAddr (W : List Byte) : Closed W fun s t => t.devAddr = s.devAddr where
  trans h h' := h'.trans h
  raise _ _ := rfl
  done _ _ := rfl
  enter _ _ := rfl
  issueRead _ _ _ := rfl
  issueWrite _ _ _ _ _ _ := rfl
  issueByte _ _ _ _ := rfl
  servedRead _ _ := rfl
  servedWrite _ _ _ _ _ := rfl
  servedByte _ _ _ := rfl
  cfgBuf _ _ := rfl
  rdBuf _ _ := rfl

/-- Only SET_ADDR moves the bus address (R23). -/
theorem exec_devAddr {i : Instr} {s t : State} (hi : ∀ a, i ≠ .setAddr a) (h : exec i s = .next t) :
    t.devAddr = s.devAddr :=
  exec_closed (closed_devAddr _) (fun _ a _ ha => absurd ha (hi a)) h

theorem closed_memory (W : List Byte) : Closed W fun s t => s.devMem.wf = true → t.devMem.wf = true where
  trans h h' hs := h' (h hs)
  raise _ _ := id
  done _ _ := id
  enter _ _ := id
  issueRead _ _ _ := id
  issueWrite _ _ _ _ _ _ := id
  issueByte _ _ _ _ := id
  servedRead _ _ := wf_serve _ _ _
  servedWrite _ _ _ _ _ := wf_serve _ _ _
  servedByte _ _ _ := wf_serve _ _ _
  cfgBuf _ _ := id
  rdBuf _ _ := id

/-- Every command keeps the device's memory canonical. -/
theorem exec_memory {i : Instr} {s t : State} (h : exec i s = .next t) (hs : s.devMem.wf = true) : t.devMem.wf = true :=
  exec_closed (closed_memory _) (fun _ _ _ _ => id) h hs

/-! ### What a plan without certain assignments or requests leaves alone -/

/-- No assignment of the plan changes `g`. -/
def Plan.Spares {α : Type} (g : State → α) : Plan → Prop
  | .finish _ _ => True
  | .assign x p => (∀ s, g (s.assign x) = g s) ∧ p.Spares g
  | .ask _ _ k => ∀ a, (k a).Spares g

section Spares

variable {α : Type} {g : State → α}

@[simp] theorem Plan.spares_finish (st : Status) (v : Word) : (finish st v).Spares g := trivial

@[simp] theorem Plan.spares_assign (x : Assign) (p : Plan) :
    (assign x p).Spares g ↔ (∀ s, g (s.assign x) = g s) ∧ p.Spares g := Iff.rfl

@[simp] theorem Plan.spares_read (ph : Phase) (reg : Byte) (k : Word → Plan) :
    (read ph reg k).Spares g ↔ ∀ bs, (k (wordOfBytes bs)).Spares g := by
  refine ⟨fun h bs => h (.data bs), fun h a => ?_⟩
  cases a with
  | data bs => exact h bs
  | ack => trivial
  | error => trivial

@[simp] theorem Plan.spares_write (ph : Phase) (reg : Byte) (bs : List Byte) (p : Plan) :
    (write ph reg bs p).Spares g ↔ p.Spares g := by
  refine ⟨fun h => h .ack, fun h a => ?_⟩
  cases a with
  | data _ => trivial
  | ack => exact h
  | error => trivial

@[simp] theorem Plan.spares_ite {c : Prop} [Decidable c] {p q : Plan} :
    (if c then p else q).Spares g ↔ (c → p.Spares g) ∧ (¬ c → q.Spares g) := by
  split <;> simp [*]

variable (hfinish : ∀ st v s, g (State.finish st v s) = g s) (hissue : ∀ ph req s, g (State.issue ph req s) = g s)
  (hserved : ∀ req s, g (State.served req s) = g s)
include hfinish hissue hserved

/-- What the shared operations and the plan's assignments leave alone, the plan leaves alone. -/
theorem Plan.run_spares {t : State} : ∀ (p : Plan) (s : State), p.Spares g → p.run s = .next t → g t = g s
  | .finish st v, s, _, h => by cases h; exact hfinish st v s
  | .assign x p, s, hp, h => (run_spares p (s.assign x) hp.2 h).trans (hp.1 s)
  | .ask ph req k, s, hp, h => by
    obtain ⟨-, rfl⟩ | ⟨a, -, h⟩ := await_cases h
    · exact (hserved _ _).trans (hissue _ _ _)
    · exact (run_spares (k a) _ (hp a) h).trans ((hserved _ _).trans (hissue _ _ _))

theorem Plan.enter_spares {s t : State} (p : Plan) (hp : p.Spares g) (h : p.enter s = .next t) : g t = g s := by
  obtain h | ⟨ph, req, k, rfl, -, h⟩ := Plan.enter_cases h
  · exact p.run_spares hfinish hissue hserved s hp h
  · obtain ⟨-, rfl⟩ | ⟨a, -, h⟩ := await_cases h
    · exact hserved _ _
    · exact ((k a).run_spares hfinish hissue hserved _ (hp a) h).trans (hserved _ _)

end Spares

/-- A command whose list has no read of CONFIG never assigns CFGBUF (R25). -/
theorem planAt_spares_cfgBuf (ps : Params) (cfg : Word) (ph : Phase) (i : Instr) :
    ∀ p, i.planAt ps cfg ph = some p → (∀ A c, BusRequest.read A 0x01 2 ∉ i.transactions A c) →
      p.Spares State.cfgBuf := by
  induction i using Instr.cases_shape with
  | busFree i hi =>
    intro p h _
    obtain ⟨st, v, rfl⟩ | ⟨a, rfl⟩ := Instr.planAt_busFree hi h
    · trivial
    · exact ⟨fun _ => rfl, trivial⟩
  | setter i f g a hi =>
    intro p _ hno
    exact absurd (by simp [transactions_setter hi]) (hno 0 0)
  | getter i f hi =>
    intro p _ hno
    exact absurd (by simp [transactions_getter hi]) (hno 0 0)
  | init =>
    intro p h _
    cases ph <;> cases h <;> simp [initPlan, initPlan2, State.assign]
  | temp i hi =>
    intro p h _
    obtain ⟨g, hg⟩ := Instr.planAt_temp hi
    rw [hg] at h
    cases ph <;> cases h <;> simp [tempPlan, State.assign]
  | setResolution a =>
    intro p h _
    cases ph <;> cases h <;> simp [resPlan, resWritePlan]
  | setWindow | setCrit | clearInt =>
    intro p _ hno
    exact absurd (by simp [Instr.transactions]) (hno 0 0)

/-- A command other than INIT, GET_TEMP and GET_FLAGS never assigns RDBUF (R25). -/
theorem planAt_spares_rdBuf (ps : Params) (cfg : Word) (ph : Phase) (i : Instr) :
    ∀ p, i.planAt ps cfg ph = some p → i ≠ .init ∧ i ≠ .getTemp ∧ i ≠ .getFlags → p.Spares State.rdBuf := by
  induction i using Instr.cases_shape with
  | busFree i hi =>
    intro p h _
    obtain ⟨st, v, rfl⟩ | ⟨a, rfl⟩ := Instr.planAt_busFree hi h
    · trivial
    · exact ⟨fun _ => rfl, trivial⟩
  | setter i f g a hi =>
    intro p h _
    rw [Instr.planAt_setter hi] at h
    cases ph <;> cases h <;> simp [rmwPlan, rmwCheckPlan, rmwWritePlan, State.assign]
  | getter i f hi =>
    intro p h _
    rw [Instr.planAt_getter hi] at h
    cases ph <;> cases h <;> simp [getPlan, State.assign]
  | init => exact fun p _ hne => absurd rfl hne.1
  | temp i hi =>
    rintro p - ⟨-, hT, hF⟩
    exact absurd hi (not_or.2 ⟨hT, hF⟩)
  | setResolution a =>
    intro p h _
    cases ph <;> cases h <;> simp [resPlan, resWritePlan]
  | setWindow u l =>
    intro p h _
    cases ph <;> cases h <;>
      simp [windowPlan, windowCheckPlan, windowWrite1Plan, windowWrite2Plan, State.assign]
  | setCrit a =>
    intro p h _
    cases ph <;> cases h <;> simp [critPlan, critCheckPlan, critWritePlan, State.assign]
  | clearInt =>
    intro p h _
    cases ph <;> cases h <;> simp [clearIntPlan, clearIntWritePlan, State.assign]

/-- The next state of a command without transactions: the response written, DEV_ADDR perhaps. -/
theorem exec_busFree {i : Instr} {s t : State} (hi : i.busFree = true) (h : exec i s = .next t) :
    ∃ st v, t = s.finish st v ∨ ∃ a, t = (s.setDevAddr a).finish st v := by
  obtain ⟨p, hp, h⟩ := exec_planned h
  obtain ⟨st, v, rfl⟩ | ⟨a, rfl⟩ := Instr.planAt_busFree hi hp
  · obtain h | ⟨_, _, _, hask, -⟩ := Plan.enter_cases h
    · cases h; exact ⟨_, _, .inl rfl⟩
    · cases hask
  · obtain h | ⟨_, _, _, hask, -⟩ := Plan.enter_cases h
    · cases h; exact ⟨_, _, .inr ⟨a, rfl⟩⟩
    · cases hask

/-- A decoded command has the opcode it was decoded from (R84). -/
theorem opcode_of_decodeFields {opc : Byte} {a b : Word} {i : Instr} (h : decodeFields opc a b = .ok i) :
    i.opcode = opc := by
  unfold decodeFields at h
  split at h <;> cases h <;> next hopc => exact BitVec.eq_of_toNat_eq hopc.symm

/-- The operation of the accepted command moves DEV_ADDR only if OPC is SET_ADDR's (R186). -/
theorem runOperation_devAddr {s t : State} (h : runOperation s = .next t) (hne : t.devAddr ≠ s.devAddr) :
    t.opc = 0x17 := by
  unfold runOperation at h
  split at h
  · next i hi =>
    by_cases hset : ∃ a, i = .setAddr a
    · obtain ⟨a, rfl⟩ := hset
      exact (exec_sameFrame h).opc.trans (opcode_of_decodeFields hi).symm
    · exact absurd (exec_devAddr (fun a ha => hset ⟨a, ha⟩) h) hne
  · rw [raise_eq_next] at h
    exact absurd (congrArg State.devAddr h).symm hne

end Sys2Proof.Machine

namespace Sys2Proof

open Sys2Proof.Machine

/-- Settles O44: the frame holds across each shared operation, and DEV_ADDR across each but SET_ADDR's own. -/
theorem commandsKeepTheirFrame : Obligations.CommandsKeepTheirFrame := by
  intro i s t h
  obtain ⟨hopc, hopa, hopb, hparams, hhost, hdev, htrace⟩ := exec_sameFrame h
  exact ⟨hopc, hopa, hopb, hparams, hhost, hdev, htrace, fun hi => exec_devAddr hi h⟩

/-- Settles O45: a command that has not ended waits, with the response as it was. -/
theorem responseIsWrittenOnlyAtTheEnd : Obligations.ResponseIsWrittenOnlyAtTheEnd := by
  intro i s t h hne
  obtain ⟨-, hresponse⟩ | ⟨u, st, v, rfl, -⟩ := exec_endsOrWaits h
  · exact hresponse
  · exact absurd rfl hne

/-- Settles O46: the plans without a read of CONFIG spare CFGBUF, those of other commands than INIT, GET_TEMP and
GET_FLAGS spare RDBUF, and a command without transactions answers at once. -/
theorem buffersAreWrittenOnlyByTheirReads : Obligations.BuffersAreWrittenOnlyByTheirReads := by
  intro i s t h
  obtain ⟨p, hp, hrun⟩ := exec_planned h
  refine ⟨fun hno => ?_, fun hne => ?_, fun hfree => ?_⟩
  · exact p.enter_spares (fun _ _ _ => rfl) (fun _ _ _ => rfl) (fun _ _ => rfl)
      (planAt_spares_cfgBuf _ _ _ i p hp hno) hrun
  · exact p.enter_spares (fun _ _ _ => rfl) (fun _ _ _ => rfl) (fun _ _ => rfl)
      (planAt_spares_rdBuf _ _ _ i p hp hne) hrun
  · obtain ⟨st, v, rfl | ⟨a, rfl⟩⟩ := exec_busFree hfree h <;> exact ⟨rfl, rfl, rfl⟩

/-- Settles O48: without a reset a step runs an operation, and only SET_ADDR's moves DEV_ADDR. -/
theorem onlyResetAndSetAddrMoveTheBusAddress : Obligations.OnlyResetAndSetAddrMoveTheBusAddress := by
  intro s t h hne
  unfold step at h
  split at h
  · next l hl => exact .inr ⟨l, hl⟩
  · next w l hl => exact .inl (runOperation_devAddr h (by simpa using hne))
  · split at h
    · cases h; exact absurd rfl hne
    · exact .inl (runOperation_devAddr h hne)

end Sys2Proof
end

section
/-! The invariant (O49, O50): each of its parts across a command, then across a step. -/

namespace Sys2Proof.Machine

/-- The parts of the invariant that speak of the response (R33, R210, R22). -/
def State.ResponseOk (s : State) : Prop :=
  s.status.toNat ≤ 6 ∧ (s.pcr = true ↔ s.status = 2) ∧ (s.status ≠ 0 → s.res = 0)

theorem responseOk_finish {s : State} {st : Status} {v : Word} (hv : st ≠ .ok → v = 0) :
    (s.finish st v).ResponseOk := by
  obtain ⟨hcode, hmarker, hok⟩ := status_code_cases st
  exact ⟨hcode, hmarker, fun h => hv (hok.1 h)⟩

theorem exec_responseOk {i : Instr} {s t : State} (hs : s.ResponseOk) (h : exec i s = .next t) : t.ResponseOk := by
  obtain ⟨-, hst, hpcr, hres⟩ | ⟨u, st, v, rfl, hv, -⟩ := exec_endsOrWaits h
  · rwa [State.ResponseOk, hst, hpcr, hres]
  · exact responseOk_finish hv

theorem State.waitsProperly_iff (s : State) :
    s.waitsProperly ↔ ∃ i, decodeFields s.opc s.opa s.opb = .ok i ∧ s.WaitsIn i := by
  constructor
  · rintro ⟨i, req, hi, hout, hlast, hm⟩
    exact ⟨i, hi, req, hout, hlast, hm⟩
  · rintro ⟨i, hi, req, hout, hlast, hm⟩
    exact ⟨i, req, hi, hout, hlast, hm⟩

/-- The command in the registers keeps its waiting proper. -/
theorem exec_waitsProperly {i : Instr} {s t : State} (hi : decodeFields s.opc s.opa s.opb = .ok i)
    (hw : s.phase ≠ .idle → s.waitsProperly) (h : exec i s = .next t) (ht : t.phase ≠ .idle) : t.waitsProperly := by
  have hwi : s.phase ≠ .idle → s.WaitsIn i := fun hne => by
    obtain ⟨j, hj, hwj⟩ := s.waitsProperly_iff.1 (hw hne)
    rw [hi] at hj
    cases hj
    exact hwj
  obtain ⟨hopc, hopa, hopb, -⟩ := exec_sameFrame h
  exact t.waitsProperly_iff.2 ⟨i, by rw [hopc, hopa, hopb, hi], (exec_endsOrWaitsIn hwi h).resolve_left ht⟩

theorem State.Inv.responseOk {s : State} (h : s.Inv) : s.ResponseOk := ⟨h.code, h.marker, h.result⟩

theorem State.Inv.of_responseOk {s : State} (hm : s.devMem.wf = true) (hr : s.ResponseOk)
    (hw : s.phase ≠ .idle → s.waitsProperly) : s.Inv := by
  obtain ⟨hcode, hmarker, hresult⟩ := hr
  exact ⟨hm, hcode, hmarker, hresult, hw⟩

theorem State.Inv.runOperation {s t : State} (hs : s.Inv) (h : Machine.runOperation s = .next t) : t.Inv := by
  unfold Machine.runOperation at h
  split at h
  · next i hi =>
    exact .of_responseOk (exec_memory h hs.memory) (exec_responseOk hs.responseOk h)
      (exec_waitsProperly hi hs.waiting h)
  · rw [raise_eq_next] at h
    subst h
    exact .of_responseOk hs.memory (responseOk_finish fun _ => rfl) fun hne => absurd rfl hne

theorem State.Inv.setHostIn {s : State} (hs : s.Inv) (l : List HostInput) : (s.setHostIn l).Inv :=
  ⟨hs.memory, hs.code, hs.marker, hs.result, hs.waiting⟩

/-- Accepting a command, or dropping it while another waits, keeps the invariant (R80). -/
theorem State.Inv.accept {s : State} (hs : s.Inv) (w : Cmd) : (s.accept w).Inv := by
  by_cases hp : s.phase = .idle
  · rw [s.accept_idle w hp]
    exact ⟨hs.memory, hs.code, hs.marker, hs.result, fun hne => absurd hp hne⟩
  · rw [s.accept_busy w hp]
    exact hs

/-- A state with the response and the phase of reset, and canonical device memory. -/
theorem State.Inv.blockReset {s : State} (hm : s.devMem.wf = true) : s.blockReset.Inv :=
  .of_responseOk hm ⟨by simp, by simp, fun _ => rfl⟩ fun hne => absurd rfl hne

end Sys2Proof.Machine

namespace Sys2Proof

open Sys2Proof.Machine

/-- Settles O49. -/
theorem invariantHoldsAtReset : Obligations.InvariantHoldsAtReset :=
  State.Inv.blockReset (s := State.reset) rfl

/-- Settles O50: a step resets the block, or runs the operation of a state that meets the invariant, or does nothing. -/
theorem everyStepKeepsTheInvariant : Obligations.EveryStepKeepsTheInvariant := by
  intro s t hs h
  unfold step at h
  split at h
  · cases h; exact .blockReset hs.memory
  · next w l _ => exact ((hs.setHostIn l).accept w).runOperation h
  · split at h
    · cases h; exact hs
    · exact hs.runOperation h

end Sys2Proof
end

section
/-! Nothing carried over (O55) and late answers (O54): two runs of one plan side by side. -/

namespace Sys2Proof.Machine

theorem State.SameWorld.assign {s s' : State} (h : s.SameWorld s') (x : Assign) :
    (s.assign x).SameWorld (s'.assign x) := by
  cases x with
  | cfgBuf w => exact ⟨h.devAddr, h.phase, h.params, h.script, h.refDev, h.devMem, h.trace⟩
  | rdBuf w => exact ⟨h.devAddr, h.phase, h.params, h.script, h.refDev, h.devMem, h.trace⟩
  | devAddr a => exact ⟨rfl, h.phase, h.params, h.script, h.refDev, h.devMem, h.trace⟩

theorem State.SameWorld.finish {s s' : State} (h : s.SameWorld s') (st : Status) (v : Word) :
    (s.finish st v).SameWorld (s'.finish st v) :=
  ⟨h.devAddr, rfl, h.params, h.script, h.refDev, h.devMem, h.trace⟩

theorem State.SameWorld.issue {s s' : State} (h : s.SameWorld s') (ph : Phase) (req : BusRequest) :
    (s.issue ph req).SameWorld (s'.issue ph req) :=
  ⟨h.devAddr, rfl, h.params, h.script, h.refDev, h.devMem, by simp [h.trace]⟩

theorem State.SameWorld.answer {s s' : State} (h : s.SameWorld s') (req : BusRequest) :
    s.answer req = s'.answer req := by
  rw [State.answer, State.answer, h.script, h.refDev, h.devMem]

theorem State.SameWorld.served {s s' : State} (h : s.SameWorld s') (req : BusRequest) :
    (s.served req).SameWorld (s'.served req) :=
  ⟨h.devAddr, h.phase, h.params, by simp [h.script, h.refDev, h.devMem], h.refDev,
    by simp [h.script, h.refDev, h.devMem], h.trace⟩

/-- Two outcomes agree: the same world, and the same response if the operation has ended. -/
def State.Agrees (t t' : State) : Prop :=
  t.SameWorld t' ∧ (t.phase = .idle → t'.status = t.status ∧ t'.pcr = t.pcr ∧ t'.res = t.res)

/-- The plan of a command does the same in two states that agree on the world. -/
theorem Plan.run_sameWorld {i : Instr} {ps : Params} {t : State} : ∀ (p : Plan) (s s' : State),
    p.Every (Rejoins i ps) s.cfgBuf → s.SameWorld s' → p.run s = .next t → ∃ t', p.run s' = .next t' ∧ t.Agrees t'
  | .finish st v, s, s', _, h, ht => by
    cases ht
    exact ⟨_, rfl, h.finish st v, fun _ => ⟨rfl, rfl, rfl⟩⟩
  | .assign x p, s, s', hp, h, ht => p.run_sameWorld (s.assign x) (s'.assign x) (by simpa using hp) (h.assign x) ht
  | .ask ph req k, s, s', ⟨⟨hne, _⟩, hk⟩, h, ht => by
    have hi := h.issue ph (req s.devAddr)
    rw [Plan.run] at ht
    rw [Plan.run, ← h.devAddr]
    obtain ⟨ha, rfl⟩ | ⟨a, ha, ht⟩ := await_cases ht
    · exact ⟨_, await_none _ (hi.answer _ ▸ ha), hi.served _, fun hp => absurd hp hne⟩
    · obtain ⟨t', ht', hagree⟩ := (k a).run_sameWorld (State.served _ (s.issue ph _)) _ (hk a) (hi.served _) ht
      exact ⟨t', (await_some _ (hi.answer _ ▸ ha)).trans ht', hagree⟩

/-- In IDLE a command has a plan, and it does not depend on CFGBUF (R25). -/
theorem Instr.planAt_idle (i : Instr) (ps : Params) : ∃ p, ∀ cfg, i.planAt ps cfg .idle = some p := by
  cases i <;> exact ⟨_, fun _ => rfl⟩

/-! ### A silent moment in the script -/

/-- The state with another script. -/
def State.withScript (es : List BusEvent) (s : State) : State := { s with script := es }

theorem State.assign_withScript (x : Assign) (es : List BusEvent) (s : State) :
    (s.assign x).withScript es = (s.withScript es).assign x := by cases x <;> rfl

section Late

variable {req : BusRequest} {k : PortAnswer → State → Result} {s t : State} {before after : List BusEvent}

/-- What a wait does with a silent moment in the script, if the operation is left waiting with only `after` in the
script: it meets the moment, and waiting again gives what no silence would have given; or it is answered the same with
and without the moment, and goes on with the moment still to come. -/
theorem await_silent_cases (hs : s.script = before ++ .silent :: after) (h : await req k s = .next t)
    (ht : t.script = after) :
    (t = s.served req ∧ await req k t = await req k (s.withScript (before ++ after))) ∨
    ∃ a u rest, u.script = rest ++ .silent :: after ∧ k a u = .next t ∧ u = s.served req ∧
      await req k (s.withScript (before ++ after)) = k a (u.withScript (rest ++ after)) := by
  have hserve := serve_silent_cases req s.refDev after before s.devMem
  rw [← hs] at hserve
  obtain ⟨m, hnow, hlater⟩ | ⟨rest, m, hnow⟩ | ⟨a, rest, m, hnow, hlater⟩ := hserve
  · have ha : s.answer req = none := by rw [State.answer, hnow]
    rw [await_none k ha] at h
    cases h
    refine .inl ⟨rfl, ?_⟩
    simp [await, State.answer, State.served, State.withScript, hnow, hlater]
  · have ha : s.answer req = none := by rw [State.answer, hnow]
    rw [await_none k ha] at h
    cases h
    rw [State.served_script, hnow] at ht
    exact absurd (congrArg List.length ht) (by simp; omega)
  · have ha : s.answer req = some a := by rw [State.answer, hnow]
    have ha' : (s.withScript (before ++ after)).answer req = some a := by
      simp [State.answer, State.withScript, hlater]
    rw [await_some k ha] at h
    refine .inr ⟨a, s.served req, rest, by simp [hnow], h, rfl, ?_⟩
    rw [await_some k ha']
    simp [State.served, State.withScript, hnow, hlater]

end Late

/-- A command left waiting by a silent moment goes on as its plan would have without that moment. -/
theorem Plan.run_late {i : Instr} {t : State} {after : List BusEvent} (hne : t.phase ≠ .idle) (ht : t.script = after) :
    ∀ (p : Plan) (s : State) (before : List BusEvent), p.Every (Rejoins i s.params) s.cfgBuf →
      s.script = before ++ .silent :: after → p.run s = .next t →
      exec i t = p.run (s.withScript (before ++ after))
  | .finish st v, s, before, _, _, h => by
    cases h; exact absurd rfl hne
  | .assign x p, s, before, hp, hs, h => by
    rw [run_assign, ← State.assign_withScript]
    exact run_late hne ht p (s.assign x) before (by simpa using hp) (by simpa using hs) h
  | .ask ph req k, s, before, ⟨⟨hidle, hcheck, hplan⟩, hk⟩, hs, h => by
    obtain ⟨rfl, hnow⟩ | ⟨a, u, rest, hu, h, rfl, hlater⟩ :=
      await_silent_cases (s := s.issue ph (req s.devAddr)) hs h ht
    · exact (exec_resumes (s := State.served _ (s.issue ph _)) hidle hcheck hplan).trans hnow
    · exact (run_late hne ht (k a) (State.served _ (s.issue ph _)) rest (hk a) hu h).trans hlater.symm

/-- The same for a plan whose first request was outstanding before. -/
theorem Plan.resume_late {i : Instr} {s t : State} {before after : List BusEvent} (hne : t.phase ≠ .idle)
    (ht : t.script = after) (p : Plan) (hidle : s.phase ≠ .idle) (hcheck : s.phase ≠ .check)
    (hplan : i.planAt s.params s.cfgBuf s.phase = some p)
    (hs : s.script = before ++ .silent :: after) (h : p.resume s = .next t) :
    exec i t = p.resume (s.withScript (before ++ after)) := by
  have hp := planAt_rejoins _ i _ _ p hplan
  cases p with
  | finish st v => exact run_late hne ht (.finish st v) s before hp hs h
  | assign x p => exact run_late hne ht (.assign x p) s before hp hs h
  | ask ph req k =>
    obtain ⟨rfl, hnow⟩ | ⟨a, u, rest, hu, h, rfl, hlater⟩ := await_silent_cases hs h ht
    · exact (exec_resumes (s := s.served _) hidle hcheck hplan).trans hnow
    · exact (run_late hne ht (k a) (s.served _) rest (hp.2 a) hu h).trans hlater.symm

end Sys2Proof.Machine

namespace Sys2Proof

open Sys2Proof.Machine

/-- Settles O55: the plan begun in IDLE is the same one, and asks, assigns and answers the same. -/
theorem earlierOperationsLeaveNoTrace : Obligations.EarlierOperationsLeaveNoTrace := by
  intro i s s' t hs hw h
  obtain ⟨p, hp⟩ := Instr.planAt_idle i s.params
  rw [exec_begins (.inl hs) (hs ▸ hp _)] at h
  have hs' : s'.phase = .idle := hw.phase ▸ hs
  rw [exec_begins (.inl hs') (by rw [hs', ← hw.params]; exact hp _)]
  exact p.run_sameWorld s s' (planAt_rejoins _ i _ _ p (hp _)) hw h

/-- Settles O54: the plan of the phase the command waits in is the plan from the outstanding request on. -/
theorem lateAnswerChangesNothing : Obligations.LateAnswerChangesNothing := by
  intro i s t before after hs h hne ht
  obtain ⟨p, hplan, -⟩ := exec_planned h
  change exec i t = exec i (s.withScript (before ++ after))
  by_cases hbegin : s.phase = .idle ∨ s.phase = .check
  · rw [exec_begins hbegin hplan] at h
    rw [exec_begins (s := s.withScript (before ++ after)) hbegin hplan]
    exact p.run_late hne ht s before (planAt_rejoins _ i _ _ p hplan) hs h
  · obtain ⟨hidle, hcheck⟩ := not_or.1 hbegin
    rw [exec_resumes hidle hcheck hplan] at h
    rw [exec_resumes (s := s.withScript (before ++ after)) hidle hcheck hplan]
    exact p.resume_late hne ht hidle hcheck hplan hs h

end Sys2Proof
end

section
/-! The fixed values: the field table (O16) and the state after reset (O10). -/

namespace Sys2Proof

open Sys2Proof.Machine

/-- The masks of different fields share no bit (R27). -/
theorem Machine.fieldMask_disjoint {f g : CfgField} (h : f ≠ g) : fieldMask f &&& fieldMask g = 0 := by
  have hfg := fields_disjoint h
  apply BitVec.eq_of_getLsbD_eq
  intro k _
  simp [getLsbD_fieldMask]
  omega

/-- Settles O16: the table is evaluated; that ids above 7 name nothing and that masks are disjoint are general facts. -/
theorem fieldTableIsAsGiven : Obligations.FieldTableIsAsGiven :=
  ⟨by decide, by decide, by decide, by decide, by decide, by decide, by decide, by decide,
    fun _ h => fieldOfId_none h, fun _ _ h => fieldMask_disjoint h, by decide, by decide⟩

/-- Settles O10. -/
theorem resetStateHoldsTheStatedValues : Obligations.ResetStateHoldsTheStatedValues :=
  ⟨rfl, rfl, rfl, rfl, rfl, rfl, rfl⟩

end Sys2Proof
end

section
/-! SUPPORT. The reference device (R62): what it answers and stores, register by register. -/

namespace Sys2Proof.Machine

/-! ### A word and its two bytes (R7, R53) -/

@[simp] theorem wordOf_hiByte_loByte (w : Word) : wordOf (hiByte w) (loByte w) = w :=
  BitVec.extractLsb'_append_extractLsb' (w := 8) (len := 8)

@[simp] theorem hiByte_wordOf (x y : Byte) : hiByte (wordOf x y) = x := BitVec.extractLsb'_append_eq_left

@[simp] theorem loByte_wordOf (x y : Byte) : loByte (wordOf x y) = y := BitVec.extractLsb'_append_eq_right

@[simp] theorem wordOfBytes_bytesOfWord (w : Word) : wordOfBytes (bytesOfWord w) = w := wordOf_hiByte_loByte w

/-! ### Registers in the device's memory -/

/-- A word stored at a register is the register's value. -/
theorem devReg_writeBytes_same {m : Memory} (h : m.wf = true) (reg : Byte) (w : Word) :
    devReg (m.writeBytes (regAddr reg) (bytesOfWord w)) reg = w := by
  obtain ⟨hhi, hlo⟩ := Memory.read_writeBytes_pair (regAddr reg) (hiByte w) (loByte w) h
  rw [devReg, bytesOfWord, hhi, hlo, wordOf_hiByte_loByte]

/-- At most two bytes stored at one register leave the others alone. -/
theorem devReg_writeBytes_other {m : Memory} (h : m.wf = true) {reg r' : Byte} (hne : r' ≠ reg) {bs : List Byte}
    (hlen : bs.length ≤ 2) : devReg (m.writeBytes (regAddr reg) bs) r' = devReg m r' := by
  have hnat : r'.toNat ≠ reg.toNat := mt BitVec.eq_of_toNat_eq hne
  rw [devReg, devReg, Memory.read_writeBytes_other bs _ h (by simp only [regAddr]; omega),
    Memory.read_writeBytes_other bs _ h (by simp only [regAddr]; omega)]

/-! ### What a write stores -/

theorem storedBytes_config (m : Memory) (bs : List Byte) : storedBytes m Config.regConfig bs =
    bytesOfWord (wordOfBytes bs ||| (devReg m Config.regConfig &&& fieldMask .lockState)) := if_pos rfl

theorem storedBytes_other (m : Memory) {reg : Byte} (h : reg ≠ Config.regConfig) (bs : List Byte) :
    storedBytes m reg bs = bs := if_neg h

theorem length_storedBytes (m : Memory) (reg : Byte) (bs : List Byte) :
    (storedBytes m reg bs).length = if reg = Config.regConfig then 2 else bs.length := by
  unfold storedBytes
  split <;> rfl

/-- The device's memory after it has stored the bytes of a write. -/
def stored (m : Memory) (reg : Byte) (bs : List Byte) : Memory := m.writeBytes (regAddr reg) (storedBytes m reg bs)

section Stored

variable {m : Memory} (h : m.wf = true)
include h

/-- On CONFIG the lock bits held are ORed into the word written (R62). -/
theorem devReg_stored_config (w : Word) : devReg (stored m Config.regConfig (bytesOfWord w)) Config.regConfig =
    w ||| (devReg m Config.regConfig &&& fieldMask .lockState) := by
  rw [stored, storedBytes_config, devReg_writeBytes_same h, wordOfBytes_bytesOfWord]

theorem devReg_stored_same {reg : Byte} (hreg : reg ≠ Config.regConfig) (w : Word) :
    devReg (stored m reg (bytesOfWord w)) reg = w := by
  rw [stored, storedBytes_other m hreg, devReg_writeBytes_same h]

theorem devReg_stored_other {reg r' : Byte} (hne : r' ≠ reg) {bs : List Byte} (hlen : bs.length ≤ 2) :
    devReg (stored m reg bs) r' = devReg m r' :=
  devReg_writeBytes_other h hne (by rw [length_storedBytes]; split <;> omega)

/-- A write changes no byte but those at its register's addresses. -/
theorem read_stored_other {reg : Byte} {bs : List Byte} {a : Nat}
    (ha : a < regAddr reg ∨ regAddr reg + (storedBytes m reg bs).length ≤ a) :
    (stored m reg bs).read a = m.read a :=
  Memory.read_writeBytes_other _ _ h ha

end Stored

/-! ### The answers -/

/-- Every register of the map answers a two-byte read with its value, and keeps it. -/
theorem refDevServe_readReg (A : Addr7) {reg : Byte} (h : inRegMap reg = true) (m : Memory) :
    refDevServe A (.read A reg 2) m = (.data (bytesOfWord (devReg m reg)), m) := by
  rw [refDevServe, if_pos ⟨rfl, h⟩]
  simp [devReg, bytesOfWord, Memory.readBytes]

/-- Every register of the map acknowledges a write and stores it. -/
theorem refDevServe_writeReg (A : Addr7) {reg : Byte} (h : inRegMap reg = true) (bs : List Byte) (m : Memory) :
    refDevServe A (.write A reg bs) m = (.ack, stored m reg bs) := if_pos ⟨rfl, h⟩

/-- At another address, or at a pointer outside the map, it answers Error. -/
theorem refDevServe_elsewhere {A : Addr7} {req : BusRequest} (h : req.addr = A → ¬ inRegMap req.reg = true)
    (m : Memory) : refDevServe A req m = (.error, m) := if_neg fun ⟨ha, hr⟩ => h ha hr

theorem inRegMap_iff (reg : Byte) : inRegMap reg = true ↔ 1 ≤ reg.toNat ∧ reg.toNat ≤ 8 := by
  simp [inRegMap]

end Sys2Proof.Machine

namespace Sys2Proof

open Sys2Proof.Machine

/-- Settles O56: each part is the law of one kind of request. -/
theorem referenceDeviceStoresAndAnswers : Obligations.ReferenceDeviceStoresAndAnswers := by
  intro A m reg w x hm hlo hhi
  have hmap : inRegMap reg = true := (inRegMap_iff reg).2 ⟨hlo, by omega⟩
  have hne8 : reg ≠ Config.regResolution := by rintro rfl; exact absurd hhi (by decide)
  have hwrite := refDevServe_writeReg A hmap (bytesOfWord w) m
  have hbyte := refDevServe_writeReg A (reg := 0x08) rfl [x] m
  rw [bytesOfWord, hiByte, loByte] at hwrite
  rw [hwrite, hbyte]
  refine ⟨refDevServe_readReg A hmap m, rfl, fun r' hr => devReg_stored_other hm hr (Nat.le_refl 2),
    fun hr => devReg_stored_same hm hr w, ?_, rfl, Memory.read_write_same hm,
    devReg_stored_other hm hne8 (by simp), fun req ha => refDevServe_elsewhere (fun h => absurd h ha) m,
    fun req hr => refDevServe_elsewhere (fun _ => ?_) m⟩
  · rintro rfl
    exact devReg_stored_config hm w
  · rw [inRegMap_iff]
    obtain hr | hr := hr
    · simp [hr]
    · omega

end Sys2Proof
end

section
/-! What commands do to the device's memory when nothing but the block writes it: its byte frame (O47) and the one-way
lock (O58). -/

namespace Sys2Proof.Machine

/-- With no change in the script, the memory after a request is as before, or it is what the device stored for it. -/
theorem serve_memory (req : BusRequest) (dev : Option Addr7) (m : Memory) :
    ∀ es : List BusEvent, (∀ reg v, BusEvent.change reg v ∉ es) →
      (serve req dev es m).2.2 = m ∨ ∃ a, (serve req dev es m).2.2 = (refDevServe a req m).2
  | [], _ => by
    cases dev with
    | none => exact .inl (by simp)
    | some a => exact .inr ⟨a, by simp⟩
  | .answer _ :: _, _ => .inl (by simp)
  | .silent :: _, _ => .inl (by simp)
  | .device :: _, _ => by
    cases dev with
    | none => exact .inl (by simp)
    | some a => exact .inr ⟨a, by simp⟩
  | .change reg v :: _, h => absurd (List.mem_cons_self ..) (h reg v)

theorem served_read_memory {s : State} (hs : s.Undisturbed) (reg : Byte) :
    (s.served (s.readReq reg)).devMem = s.devMem := by
  obtain h | ⟨a, h⟩ := serve_memory (s.readReq reg) s.refDev s.devMem s.script hs
  · exact h
  · refine h.trans ?_
    unfold refDevServe
    split <;> rfl

theorem served_write_memory {s : State} (hs : s.Undisturbed) (A : Addr7) (reg : Byte) (bs : List Byte) :
    (s.served (.write A reg bs)).devMem = s.devMem ∨ (s.served (.write A reg bs)).devMem = stored s.devMem reg bs := by
  obtain h | ⟨a, h⟩ := serve_memory (.write A reg bs) s.refDev s.devMem s.script hs
  · exact .inl h
  · unfold refDevServe at h
    split at h
    · exact .inr h
    · exact .inl h

theorem undisturbed_served {s : State} (hs : s.Undisturbed) (req : BusRequest) : (s.served req).Undisturbed :=
  fun reg v h => hs reg v ((serve_script_suffix req s.refDev s.script s.devMem).subset h)

/-- From canonical undisturbed memory to canonical undisturbed memory, related by `P`. -/
def KeepsDevice (P : Memory → Memory → Prop) (s t : State) : Prop :=
  s.devMem.wf = true → s.Undisturbed → t.devMem.wf = true ∧ t.Undisturbed ∧ P s.devMem t.devMem

theorem KeepsDevice.related {P : Memory → Memory → Prop} {s t : State} (h : KeepsDevice P s t)
    (hm : s.devMem.wf = true) (hs : s.Undisturbed) : P s.devMem t.devMem := by
  obtain ⟨-, -, hP⟩ := h hm hs
  exact hP

section Keeps

variable {P : Memory → Memory → Prop} {W : List Byte} (hrefl : ∀ m, P m m)
include hrefl

theorem keepsDevice_of_eq {s t : State} (hm : t.devMem = s.devMem) (hes : t.script = s.script) : KeepsDevice P s t := by
  intro hwf hs
  rw [State.Undisturbed, hm, hes]
  exact ⟨hwf, hs, hrefl _⟩

theorem keepsDevice_served_write {s : State} {A : Addr7} {reg : Byte} {bs : List Byte}
    (hstore : ∀ m : Memory, m.wf = true → P m (stored m reg bs)) : KeepsDevice P s (s.served (.write A reg bs)) := by
  intro hwf hs
  refine ⟨wf_serve _ _ _ hwf, undisturbed_served hs _, ?_⟩
  obtain h | h := served_write_memory hs A reg bs <;> rw [h]
  · exact hrefl _
  · exact hstore _ hwf

/-- A preorder on memories that holds across every store of the block holds across every shared operation. -/
theorem closed_keepsDevice (htrans : ∀ {a b c}, P a b → P b c → P a c)
    (hword : ∀ m : Memory, m.wf = true → ∀ reg ∈ W, reg ≠ Config.regResolution → ∀ w,
      P m (stored m reg (bytesOfWord w)))
    (hbyte : ∀ m : Memory, m.wf = true → Config.regResolution ∈ W → ∀ x, P m (stored m Config.regResolution [x])) :
    Closed W (KeepsDevice P) where
  trans hab hbc hwf hs := by
    obtain ⟨hwf, hs, hP⟩ := hab hwf hs
    obtain ⟨hwf, hs, hP'⟩ := hbc hwf hs
    exact ⟨hwf, hs, htrans hP hP'⟩
  raise _ _ := keepsDevice_of_eq hrefl rfl rfl
  done _ _ := keepsDevice_of_eq hrefl rfl rfl
  enter _ _ := keepsDevice_of_eq hrefl rfl rfl
  issueRead _ _ _ := keepsDevice_of_eq hrefl rfl rfl
  issueWrite _ _ _ _ _ _ := keepsDevice_of_eq hrefl rfl rfl
  issueByte _ _ _ _ := keepsDevice_of_eq hrefl rfl rfl
  servedRead reg s hwf hs :=
    ⟨wf_serve _ _ _ hwf, undisturbed_served hs _, (served_read_memory hs reg).symm ▸ hrefl _⟩
  servedWrite reg v _ hW hne := keepsDevice_served_write hrefl fun m hm => hword m hm reg hW hne v
  servedByte v _ hW := keepsDevice_served_write hrefl fun m hm => hbyte m hm hW _
  cfgBuf _ _ := keepsDevice_of_eq hrefl rfl rfl
  rdBuf _ _ := keepsDevice_of_eq hrefl rfl rfl

end Keeps

/-! ### The lock bits -/

/-- Every lock bit of CONFIG set in `m` is set in `m'`. -/
def KeepsLock (m m' : Memory) : Prop :=
  ∀ k, (k = 6 ∨ k = 7) → (devReg m 0x01).getLsbD k = true → (devReg m' 0x01).getLsbD k = true

theorem keepsLock_of_eq {m m' : Memory} (h : devReg m' 0x01 = devReg m 0x01) : KeepsLock m m' :=
  fun _ _ hset => h ▸ hset

theorem getLsbD_lockMask {k : Nat} (h : k = 6 ∨ k = 7) : (fieldMask .lockState).getLsbD k = true := by
  obtain rfl | rfl := h <;> decide

/-- A write of any word to any register clears no lock bit (R62). -/
theorem keepsLock_stored_word {m : Memory} (hm : m.wf = true) (reg : Byte) (w : Word) :
    KeepsLock m (stored m reg (bytesOfWord w)) := by
  by_cases hreg : Config.regConfig = reg
  · subst hreg
    intro k hk hset
    rw [← Config.regConfig] at hset ⊢
    rw [devReg_stored_config hm, BitVec.getLsbD_or, BitVec.getLsbD_and, hset, getLsbD_lockMask hk]
    simp
  · exact keepsLock_of_eq (devReg_stored_other hm hreg (Nat.le_refl 2))

theorem keepsLock_stored_byte {m : Memory} (hm : m.wf = true) (x : Byte) :
    KeepsLock m (stored m Config.regResolution [x]) :=
  keepsLock_of_eq (devReg_stored_other hm (by decide) (by simp))

/-- No command clears a lock bit. -/
theorem exec_keepsLock {i : Instr} {s t : State} (h : exec i s = .next t) : KeepsDevice KeepsLock s t :=
  exec_closed
    (closed_keepsDevice (fun _ _ _ => id) (fun h h' k hk => h' k hk ∘ h k hk)
      (fun _ hm reg _ _ w => keepsLock_stored_word hm reg w) (fun _ hm _ x => keepsLock_stored_byte hm x))
    (fun _ _ _ _ => keepsDevice_of_eq (fun _ _ _ => id) rfl rfl) h

theorem runOperation_keepsLock {s t : State} (h : runOperation s = .next t) : KeepsDevice KeepsLock s t := by
  unfold runOperation at h
  split at h
  · exact exec_keepsLock h
  · rw [raise_eq_next] at h
    exact h ▸ keepsDevice_of_eq (fun _ _ _ => id) rfl rfl

/-! ### The bytes outside the registers written -/

/-- Every byte at an address outside `L` is the same in `m'` as in `m`. -/
def SameOutside (L : List Nat) (m m' : Memory) : Prop := ∀ a, a ∉ L → m'.read a = m.read a

/-- The addresses of the bytes a write of a register stores: two, for RESOLUTION one (R55). -/
def regCells (reg : Byte) : List Nat :=
  if reg = Config.regResolution then [regAddr reg] else [regAddr reg, regAddr reg + 1]

/-- A command stores to the bytes of the registers it writes (R57). -/
theorem storedAt_eq_flatMap (i : Instr) : i.storedAt = i.writtenRegs.flatMap regCells := by cases i <;> rfl

theorem sameOutside_stored {i : Instr} {m : Memory} (hm : m.wf = true) {reg : Byte} (hreg : reg ∈ i.writtenRegs)
    {bs : List Byte}
    (hcells : ∀ a, regAddr reg ≤ a → a < regAddr reg + (storedBytes m reg bs).length → a ∈ regCells reg) :
    SameOutside i.storedAt m (stored m reg bs) := by
  intro a ha
  refine read_stored_other hm ?_
  by_contra hin
  rw [storedAt_eq_flatMap] at ha
  exact ha (List.mem_flatMap.2 ⟨reg, hreg, hcells a (by omega) (by omega)⟩)

/-- A command changes only the bytes it stores to. -/
theorem exec_sameOutside {i : Instr} {s t : State} (h : exec i s = .next t) :
    KeepsDevice (SameOutside i.storedAt) s t := by
  refine exec_closed (closed_keepsDevice (fun _ _ _ => rfl) (fun h h' a ha => (h' a ha).trans (h a ha)) ?_ ?_)
    (fun _ _ _ _ => keepsDevice_of_eq (fun _ _ _ => rfl) rfl rfl) h
  · intro m hm reg hreg hne w
    refine sameOutside_stored hm hreg fun a hlo hhi => ?_
    have hlen : (storedBytes m reg (bytesOfWord w)).length = 2 := by rw [length_storedBytes]; split <;> rfl
    rw [regCells, if_neg hne, List.mem_pair]
    omega
  · intro m hm hreg x
    refine sameOutside_stored hm hreg fun a hlo hhi => ?_
    rw [storedBytes_other m (by decide)] at hhi
    rw [regCells, if_pos rfl, List.mem_singleton]
    simp only [List.length_singleton] at hhi
    omega

end Sys2Proof.Machine

namespace Sys2Proof

open Sys2Proof.Machine

/-- Settles O58: a reset and an idle step leave the memory, and no operation's store clears a lock bit. -/
theorem lockIsOneWayInTheDevice : Obligations.LockIsOneWayInTheDevice := by
  intro s t hm hs h
  have kept {u : State} (hmem : u.devMem = s.devMem) (hes : u.script = s.script) (hu : runOperation u = .next t) :
      KeepsLock s.devMem t.devMem := by
    rw [State.Undisturbed, ← hes] at hs
    rw [← hmem] at hm ⊢
    exact (runOperation_keepsLock hu).related hm hs
  unfold step at h
  split at h
  · cases h; exact fun _ _ => id
  · exact kept (by simp) (by simp) h
  · split at h
    · cases h; exact fun _ _ => id
    · exact kept rfl rfl h

/-- Settles O47: each store of a command lies within the bytes of the registers it writes. -/
theorem deviceBytesKeepTheirFrame : Obligations.DeviceBytesKeepTheirFrame :=
  fun _ _ _ hm hs h => (exec_sameOutside h).related hm hs

end Sys2Proof
end

section
/-! The field setters and getters against the reference device (O57, O59). -/

namespace Sys2Proof.Machine

/-- The state with the device's registers and the script as given. -/
def State.withDevice (es : List BusEvent) (m : Memory) (s : State) : State := { s with script := es, devMem := m }

/-- The reference device answers the next request, its registers being `m` by then, and leaves the script `es`. -/
def State.DeviceNext (es : List BusEvent) (m : Memory) (s : State) : Prop :=
  ∀ req, serve req s.refDev s.script s.devMem =
    (some (refDevServe s.devAddr req m).1, es, (refDevServe s.devAddr req m).2)

section DeviceNext

variable {s : State} {es : List BusEvent} {m : Memory}

theorem deviceNext_nil (hd : s.refDev = some s.devAddr) (hes : s.script = []) : s.DeviceNext [] s.devMem := by
  intro req; rw [hd, hes, serve_nil_some]

theorem deviceNext_device (hd : s.refDev = some s.devAddr) (hes : s.script = .device :: es) :
    s.DeviceNext es s.devMem := by
  intro req; rw [hd, hes, serve_device_some]

theorem deviceNext_change {reg : Byte} {v : Word} (hd : s.refDev = some s.devAddr)
    (hes : s.script = .change reg v :: .device :: es) : s.DeviceNext es (devChange reg v s.devMem) := by
  intro req; rw [hd, hes, serve_change, serve_device_some]

variable (h : s.DeviceNext es m)
include h

/-- A read of a register of the map goes on with the register's value. -/
theorem State.DeviceNext.awaitRead {reg : Byte} (hreg : inRegMap reg = true) (k : Word → State → Result) :
    Machine.awaitRead (s.readReq reg) k s = k (devReg m reg) (s.withDevice es m) := by
  have hserve := h (s.readReq reg)
  rw [State.readReq, refDevServe_readReg _ hreg] at hserve
  rw [State.readReq, awaitRead_data k (congrArg Prod.fst hserve), wordOfBytes_bytesOfWord, State.served, hserve]
  rfl

/-- A write to a register of the map is acknowledged and stored. -/
theorem State.DeviceNext.awaitWrite {reg : Byte} (hreg : inRegMap reg = true) (w : Word) (k : State → Result) :
    Machine.awaitWrite (s.writeReq reg w) k s = k (s.withDevice es (stored m reg (bytesOfWord w))) := by
  have hserve := h (s.writeReq reg w)
  rw [State.writeReq, refDevServe_writeReg _ hreg] at hserve
  rw [State.writeReq, awaitWrite_ack k (congrArg Prod.fst hserve), State.served, hserve]
  rfl

end DeviceNext

/-- CONFIG has been read: in CFGBUF, the device and the script as they were left. -/
def State.configRead (es : List BusEvent) (m : Memory) (s : State) : State :=
  ((s.issue .rdCfg (s.readReq Config.regConfig)).withDevice es m).setCfgBuf (devReg m Config.regConfig)

/-- A setter started in IDLE reads CONFIG and goes on with its tests. -/
theorem exec_setter_device {i : Instr} {f : CfgField} {g : Bool} {a : Word} {s : State} {es : List BusEvent}
    {m : Memory} (hi : i.setter? = some (f, g, a)) (hs : s.phase = .idle) (h : s.DeviceNext es m) :
    exec i s = rmwCheck f g a (s.configRead es m) := by
  rw [exec_setter hi, rmw, hs]
  exact State.DeviceNext.awaitRead (s := s.issue .rdCfg _) h rfl _

/-- A getter started in IDLE reads CONFIG and answers the field of it. -/
theorem exec_getter_device {j : Instr} {f : CfgField} {s : State} {es : List BusEvent} {m : Memory}
    (hj : j.getter? = some f) (hs : s.phase = .idle) (h : s.DeviceNext es m) : exec j s =
      .next (((s.configRead es m).enter .check).finish .ok (cfgGet f (devReg m Config.regConfig))) := by
  rw [exec_getter hj, getField, hs]
  exact State.DeviceNext.awaitRead (s := s.issue .rdCfg _) h rfl _

/-- An operation that wrote the word `w` to CONFIG has ended with OK, the device having stored it. -/
def State.configWritten (es : List BusEvent) (m : Memory) (w : Word) (s : State) : State :=
  ((s.issue .wr1 (s.writeReq Config.regConfig w)).withDevice es
    (stored m Config.regConfig (bytesOfWord w))).finish .ok 0

/-- A setter whose tests are passed writes the merged word and ends. -/
theorem rmwCheck_device {f : CfgField} {g : Bool} {a : Word} {s : State} {es : List BusEvent} {m : Memory}
    (h : s.DeviceNext es m) (hg : g = true → locked s.cfgBuf = false) (hv : enumValid f a = true) :
    rmwCheck f g a s = .next (s.configWritten es m (cfgPut f s.cfgBuf a)) := by
  rw [rmwCheck_valid hg hv]
  exact State.DeviceNext.awaitWrite (s := s.issue .wr1 _) h rfl _ _

/-! ### What a setter leaves in CONFIG -/

theorem cfgGet_or (f : CfgField) (x y : Word) : cfgGet f (x ||| y) = cfgGet f x ||| cfgGet f y := by
  rw [cfgGet, BitVec.and_comm, BitVec.and_or_distrib_left, BitVec.ushiftRight_or_distrib, BitVec.and_comm,
    BitVec.and_comm _ y, cfgGet, cfgGet]

/-- A field put into a word is got back (R117). -/
theorem cfgGet_cfgPut (f : CfgField) (W : Word) {v : Word} (hv : v.toNat < 2 ^ fieldWidth f) :
    cfgGet f (cfgPut f W v) = v := by
  have hbelow := field_below f
  apply BitVec.eq_of_getLsbD_eq
  intro k _
  rw [getLsbD_cfgGet]
  by_cases hk : k < fieldWidth f
  · rw [getLsbD_cfgPut f W hv (by omega), if_pos (by omega)]
    simp [hk]
  · simp [hk, getLsbD_of_fits hv (Nat.le_of_not_lt hk)]

/-- Of the bits of another field a field's extract sees nothing. -/
theorem cfgGet_and_fieldMask (f g : CfgField) (W : Word) :
    cfgGet f (W &&& fieldMask g) = if f = g then cfgGet f W else 0 := by
  rw [cfgGet, BitVec.and_assoc]
  split
  · next h => rw [h, BitVec.and_self, cfgGet]
  · next h => rw [fieldMask_disjoint (Ne.symm h)]; simp

/-- What a getter of the field finds in CONFIG after its setter has written: the value set; of the lock bits also those
held before. -/
theorem cfgGet_stored_cfgPut {m : Memory} (hm : m.wf = true) (f : CfgField) (W : Word) {v : Word}
    (hv : v.toNat < 2 ^ fieldWidth f) :
    cfgGet f (devReg (stored m Config.regConfig (bytesOfWord (cfgPut f W v))) Config.regConfig) =
      if f = .lockState then v ||| cfgGet .lockState (devReg m Config.regConfig) else v := by
  rw [devReg_stored_config hm, cfgGet_or, cfgGet_cfgPut f W hv, cfgGet_and_fieldMask]
  split
  · next h => rw [h]
  · exact BitVec.or_zero

end Sys2Proof.Machine

namespace Sys2Proof

open Sys2Proof.Machine

/-- Settles O57: the setter ended with OK only after its tests and its write, and what the device then holds in CONFIG
is the merged word with the old lock bits. -/
theorem setThenGetAgainstTheDevice : Obligations.SetThenGetAgainstTheDevice := by
  intro i j f g a s t hi hj hs hes hd hm h hok
  rw [exec_setter_device hi hs (deviceNext_nil hd hes)] at h
  obtain ⟨-, -, rfl⟩ | ⟨-, -, rfl⟩ | ⟨hg, hv, -⟩ := rmwCheck_cases h
  · cases hok
  · cases hok
  · have hnext : (s.configRead [] s.devMem).DeviceNext [] s.devMem := deviceNext_nil hd rfl
    rw [rmwCheck_device hnext hg hv] at h
    cases h
    exact ⟨_, exec_getter_device hj rfl (deviceNext_nil hd rfl), rfl,
      cfgGet_stored_cfgPut hm f _ ((enumValid_iff f a).1 hv)⟩

/-- Settles O59: the read answers CONFIG as it stood, the write the device as changed, and nothing is tested in between
but the word read. -/
theorem changeAfterTheReadIsNotNoticed : Obligations.ChangeAfterTheReadIsNotNoticed := by
  intro i f g a v s es hi hs hd _ hes hunlocked hv
  have hnext : (s.configRead (.change 0x01 v :: .device :: es) s.devMem).DeviceNext es (devChange 0x01 v s.devMem) :=
    deviceNext_change hd rfl
  have hrun := (exec_setter_device hi hs (deviceNext_device hd hes)).trans
    (rmwCheck_device hnext (fun _ => locked_eq_false hunlocked) ((enumValid_iff f a).2 hv))
  exact ⟨_, hrun, rfl, rfl, List.append_assoc _ _ _⟩

end Sys2Proof
end

section
/-! How an operation found waiting goes on (O60): in the phase of its first transaction as one just begun, later as the
sequence from there. -/

namespace Sys2Proof.Machine

/-! ### The first transaction -/

/-- The plan in the phase of the first transaction is the plan begun in IDLE, and its first request is that transaction;
a first write, SET_RESOLUTION's, only with a valid operand. -/
theorem planAt_first (ps : Params) (cfg : Word) (i : Instr) :
    ∀ ph, i.busPhases.head? = some ph → (ph.isWrite = true → i.wellFormed = true) → ∃ req k,
      i.planAt ps cfg ph = some (.ask ph req k) ∧ i.planAt ps cfg .idle = some (.ask ph req k) ∧
      ph ≠ .idle ∧ ph ≠ .check ∧ ∀ A, (i.transactions A cfg).head? = some (req A) := by
  induction i using Instr.cases_shape with
  | busFree i hi =>
    intro ph h
    cases i <;> simp only [Instr.busFree, Bool.false_eq_true] at hi <;> cases h
  | setter i f g a hi =>
    intro ph h _
    obtain ⟨hphases, -⟩ := setter_facts hi
    rw [hphases] at h
    cases h
    simp only [Instr.planAt_setter hi, transactions_setter hi]
    exact ⟨_, _, rfl, rfl, by simp, by simp, fun _ => rfl⟩
  | getter i f hi =>
    intro ph h _
    rw [busPhases_getter hi] at h
    cases h
    simp only [Instr.planAt_getter hi, transactions_getter hi]
    exact ⟨_, _, rfl, rfl, by simp, by simp, fun _ => rfl⟩
  | temp i hi =>
    intro ph h _
    obtain rfl | rfl := hi <;> cases h <;> exact ⟨_, _, rfl, rfl, by simp, by simp, fun _ => rfl⟩
  | setResolution a =>
    intro ph h hw
    cases h
    have hvalid : resPlan a = resWritePlan a := if_pos (hw rfl)
    simp only [Instr.planAt, resPlanAt, hvalid]
    exact ⟨_, _, rfl, rfl, by simp, by simp, fun _ => rfl⟩
  | init | setWindow | setCrit | clearInt =>
    intro ph h _
    cases h
    exact ⟨_, _, rfl, rfl, by simp, by simp, fun _ => rfl⟩

/-- In the phase of its first transaction a command goes on as one begun in IDLE that has issued it (R51, R52). -/
theorem exec_first {i : Instr} {s : State} {T : List BusRequest} {req : BusRequest}
    (hph : i.busPhases.head? = some s.phase) (hreq : (i.transactions s.devAddr s.cfgBuf).head? = some req)
    (hT : s.trace = T ++ [req]) (hw : s.phase.isWrite = true → i.wellFormed = true) :
    exec i s = exec i { s with phase := .idle, trace := T } := by
  obtain ⟨r, k, hplan, hidle, hne, hne', hfirst⟩ := planAt_first s.params s.cfgBuf i s.phase hph hw
  obtain rfl : req = r s.devAddr := Option.some.inj (hreq.symm.trans (hfirst _))
  have hissue : State.issue s.phase (r s.devAddr) { s with phase := .idle, trace := T } = s := by
    rw [State.issue, ← hT]
  rw [exec_resumes hne hne' hplan, exec_begins (s := { s with phase := .idle, trace := T }) (.inl rfl) hidle,
    Plan.resume, Plan.run, hissue]

/-! ### The later transactions -/

/-- A wait for a read goes on as `AfterRead` says, when the outcome after two bytes is as claimed. -/
theorem afterRead_awaitRead {req : BusRequest} {k : Word → State → Result} {s : State} {o : Result}
    {K : Byte → Byte → State → Prop} (ho : o = awaitRead req k s)
    (hK : ∀ x y, o = k (wordOf x y) (s.served req) → K x y (s.served req)) : s.AfterRead req o K :=
  ⟨fun h => ho.trans (awaitRead_none k h), fun h => ho.trans (awaitRead_error k h),
    fun x y h => hK x y (ho.trans (awaitRead_pair k h))⟩

/-- The same for a write. -/
theorem afterWrite_awaitWrite {req : BusRequest} {k : State → Result} {s : State} {o : Result} {K : State → Prop}
    (ho : o = awaitWrite req k s) (hK : o = k (s.served req) → K (s.served req)) : s.AfterWrite req o K :=
  ⟨fun h => ho.trans (awaitWrite_none k h), fun h => ho.trans (awaitWrite_error k h),
    fun h => hK (ho.trans (awaitWrite_ack k h))⟩

/-- After its last write an operation ends with STATUS 0 and RES 0. -/
theorem afterWrite_last {req : BusRequest} {s : State} {o : Result} (ho : o = awaitWrite req (done 0) s) :
    s.AfterWrite req o fun t => o = .next (t.ended 0 false 0) :=
  afterWrite_awaitWrite ho id

/-- INIT's test of the second identity register is of the byte that MFRID_BYTE_INDEX names (R180). -/
theorem mfrIdMatches_wordOf (p : Params) (m0 m1 : Byte) : mfrIdMatches p (wordOf m0 m1) = true ↔
    (if p.mfrIdByteIndex = 0 then m0 else m1) = p.expectedManufacturerId := by
  rw [mfrIdMatches, byteAt, hiByte_wordOf, loByte_wordOf, beq_iff_eq]

theorem exec_init_rdId2 {s : State} (h : s.phase = .rdId2) : exec .init s = initRead2 s := by
  rw [exec, execInit, h]

theorem exec_setter_wr1 {i : Instr} {f : CfgField} {g : Bool} {a : Word} {s : State}
    (hi : i.setter? = some (f, g, a)) (h : s.phase = .wr1) : exec i s = rmwWrite f a s := by
  rw [exec_setter hi, rmw, h]

theorem exec_clearInt_wr1 {s : State} (h : s.phase = .wr1) : exec .clearInt s = clearIntWrite s := by
  rw [exec, execClearInt, h]

theorem exec_setCrit_wr1 {s : State} (a : Word) (h : s.phase = .wr1) : exec (.setCrit a) s = critWrite a s := by
  rw [exec, execSetCrit, h]

theorem exec_setWindow_wr1 {s : State} (u l : Word) (h : s.phase = .wr1) :
    exec (.setWindow u l) s = windowWrite1 u l s := by
  rw [exec, execSetWindow, h]

theorem exec_setWindow_wr2 {s : State} (u l : Word) (h : s.phase = .wr2) :
    exec (.setWindow u l) s = windowWrite2 l s := by
  rw [exec, execSetWindow, h]

end Sys2Proof.Machine

namespace Sys2Proof

open Sys2Proof.Machine

/-- Settles O60: the first transaction by the plans, each later one by the sequence from there. -/
theorem waitingOperationsResume : Obligations.WaitingOperationsResume := by
  refine ⟨fun i s T req => exec_first, fun s h => ?_, fun i f g a s hi h => ?_, fun s h => ?_, fun a s h => ?_,
    fun hi lo s => ⟨fun h => ?_, fun h => ?_⟩⟩
  · refine afterRead_awaitRead (exec_init_rdId2 h) fun m0 m1 ho => ?_
    have hmatch := mfrIdMatches_wordOf s.params m0 m1
    exact ⟨fun hne => ho.trans (if_neg fun hm => hne (hmatch.1 hm)), fun heq => ho.trans (if_pos (hmatch.2 heq))⟩
  · exact afterWrite_last (exec_setter_wr1 hi h)
  · exact afterWrite_last (exec_clearInt_wr1 h)
  · exact afterWrite_last (exec_setCrit_wr1 a h)
  · exact afterWrite_awaitWrite (exec_setWindow_wr1 hi lo h) afterWrite_last
  · exact afterWrite_last (exec_setWindow_wr2 hi lo h)

end Sys2Proof
end

section
/-! Decoding and encoding (O1 to O4): `decodeFields` gives a command back from its opcode and operands, answers an error
for reserved opcodes only, and looks at no operand that its opcode does not use. -/

namespace Sys2Proof

/-! ### What `decodeFields` answers -/

/-- The opcode and the operands of a command are decoded to the command (R84). -/
@[simp] theorem decodeFields_opcode_operands (i : Instr) : decodeFields i.opcode i.operands.1 i.operands.2 = .ok i := by
  cases i <;> rfl

theorem decode_encode (i : Instr) : decode (encode i) = .ok i := by
  simp only [decode, encode, opcField_cmdWord, opaField_cmdWord, opbField_cmdWord, decodeFields_opcode_operands]

/-- No command of R84 has a reserved opcode. -/
theorem opcode_not_reserved (i : Instr) : ¬ reservedOpcode i.opcode := by
  cases i <;> simp [Instr.opcode, reservedOpcode]

/-- Only a reserved opcode is refused, by its own name (R85). -/
theorem error_of_decodeFields {opc : Byte} {a b : Word} {e : DecodeError} (h : decodeFields opc a b = .error e) :
    e = .reservedOpcode opc ∧ reservedOpcode opc := by
  unfold decodeFields at h
  split at h <;> cases h
  refine ⟨rfl, ?_⟩
  simp only [imp_false] at *
  unfold reservedOpcode
  omega

/-- A decoded command had an opcode of R84. -/
theorem not_reserved_of_decodeFields {opc : Byte} {a b : Word} {i : Instr} (h : decodeFields opc a b = .ok i) :
    ¬ reservedOpcode opc := by
  rw [← Machine.opcode_of_decodeFields h]
  exact opcode_not_reserved i

/-- A reserved opcode is refused by its own name, whatever the operands (R85). -/
theorem decodeFields_reserved {opc : Byte} (a b : Word) (h : reservedOpcode opc) :
    decodeFields opc a b = .error (.reservedOpcode opc) := by
  cases hd : decodeFields opc a b with
  | ok i => exact absurd h (not_reserved_of_decodeFields hd)
  | error e => rw [(error_of_decodeFields hd).1]

/-- Any other opcode is decoded, whatever the operands (R82, R84). -/
theorem exists_decodeFields {opc : Byte} (a b : Word) (h : ¬ reservedOpcode opc) : ∃ i, decodeFields opc a b = .ok i := by
  cases hd : decodeFields opc a b with
  | ok i => exact ⟨i, rfl⟩
  | error e => exact absurd (error_of_decodeFields hd).2 h

/-! ### Operands an opcode does not use (R86) -/

/-- The opcodes of the commands without operands (R84). -/
def opcodesWithoutOperands : List Byte :=
  [0x10, 0x11, 0x12, 0x16, 0x30, 0x31, 0x32, 0x33, 0x34, 0x35, 0x36, 0x37]

/-- The opcodes of CFG_GET, CFG_PUT and SET_WINDOW, which alone use the second operand (R84). -/
def opcodesWithOpb : List Byte := [0x04, 0x05, 0x14]

theorem decodeFields_ignores_operands {opc : Byte} (a a' b b' : Word) (h : opc ∈ opcodesWithoutOperands) :
    decodeFields opc a b = decodeFields opc a' b' := by
  simp only [opcodesWithoutOperands, List.mem_cons, List.not_mem_nil, or_false] at h
  obtain rfl | rfl | rfl | rfl | rfl | rfl | rfl | rfl | rfl | rfl | rfl | rfl := h <;> rfl

theorem decodeFields_ignores_opb {opc : Byte} (a b b' : Word) (h : opc ∉ opcodesWithOpb) :
    decodeFields opc a b = decodeFields opc a b' := by
  have hne {o : Byte} (ho : o ∈ opcodesWithOpb) : opc.toNat ≠ o.toNat := fun he => h (BitVec.eq_of_toNat_eq he ▸ ho)
  unfold decodeFields
  split
  case h_4 hopc => exact absurd hopc (hne (o := 0x04) (by decide))
  case h_5 hopc => exact absurd hopc (hne (o := 0x05) (by decide))
  case h_10 hopc => exact absurd hopc (hne (o := 0x14) (by decide))
  all_goals rfl

/-- Operands that differ at most where the opcode does not look are decoded alike. -/
theorem decodeFields_congr {opc : Byte} {a a' b b' : Word}
    (ha : opc ∉ opcodesWithoutOperands → a = a') (hb : opc ∈ opcodesWithOpb → b = b') :
    decodeFields opc a b = decodeFields opc a' b' := by
  by_cases hnone : opc ∈ opcodesWithoutOperands
  · exact decodeFields_ignores_operands a a' b b' hnone
  · rw [ha hnone]
    by_cases hboth : opc ∈ opcodesWithOpb
    · rw [hb hboth]
    · exact decodeFields_ignores_opb a' b b' hboth

/-! ### The statements -/

/-- Settles O2: the fields of a command's word are its opcode and its operands. -/
theorem decodeOfEncodeIsIdentity : Obligations.DecodeOfEncodeIsIdentity := decode_encode

/-- Settles O3: the opcodes agree, so both words are decoded by the same row of R84. -/
theorem unusedOperandBitsAreIgnored : Obligations.UnusedOperandBitsAreIgnored := by
  intro w w' hopc ha hb
  rw [decode, decode, ← hopc]
  exact decodeFields_congr ha hb

/-- Settles O4: what is decoded has an opcode of R84, what is refused a reserved one. -/
theorem decodeRefusesExactlyReservedOpcodes : Obligations.DecodeRefusesExactlyReservedOpcodes := fun _ =>
  ⟨⟨fun ⟨_, hi⟩ => not_reserved_of_decodeFields hi, exists_decodeFields _ _⟩, decodeFields_reserved _ _⟩

/-- Settles O1 by evaluation. -/
theorem sampleWordsDecode : Obligations.SampleWordsDecode := ⟨rfl, rfl, rfl, rfl, rfl, rfl, rfl, rfl⟩

end Sys2Proof
end

section
/-! The value of a decimal literal as the assembler writes it (O5): the three parts of a TOP16 word read back. -/

namespace Sys2Proof.Machine

section Parts
variable (s : BitVec 1) (I : BitVec 8) (F : BitVec 7)

@[simp] theorem topSign_append : topSign (s ++ I ++ F) = s := by
  apply BitVec.eq_of_toNat_eq
  simp only [topSign, BitVec.extractLsb'_toNat, toNat_append, Nat.shiftRight_eq_div_pow]
  omega

@[simp] theorem topInt_append : topInt (s ++ I ++ F) = I := by
  apply BitVec.eq_of_toNat_eq
  simp only [topInt, BitVec.extractLsb'_toNat, toNat_append, Nat.shiftRight_eq_div_pow]
  omega

@[simp] theorem topFrac_append : topFrac (s ++ I ++ F) = F := BitVec.extractLsb'_append_eq_right

end Parts

/-- The factor of a sign bit (R9). -/
theorem signFactor_ofBool (minus : Bool) :
    1 - 2 * ((BitVec.ofBool minus).toNat : Int) = if minus = true then -1 else 1 := by
  cases minus <;> rfl

end Sys2Proof.Machine

namespace Sys2Proof

open Sys2Proof.Machine

/-- Settles O5: neither part of the literal is cut off by its width. -/
theorem assembledLiteralHasItsValue : Obligations.AssembledLiteralHasItsValue := by
  intro minus int frac hint hfrac
  have hI : (BitVec.ofNat 8 int).toNat = int := by
    rw [BitVec.toNat_ofNat, Nat.mod_eq_of_lt (by omega)]
  have hF : (BitVec.ofNat 7 frac).toNat = frac := by
    rw [BitVec.toNat_ofNat, Nat.mod_eq_of_lt (by omega)]
  refine ⟨_, if_pos ⟨hint, hfrac⟩, ?_, ?_⟩
  · rwa [topValid, decide_eq_true_eq, topFrac_append, hF]
  · rw [topVal, topSign_append, topInt_append, topFrac_append, signFactor_ofBool, hI, hF]

end Sys2Proof
end

section
/-! The command port (O6 to O8) and the response (O12): a step by what the host does and by the phase it finds. -/

namespace Sys2Proof.Machine

variable {s : State} {w : Cmd} {l : List HostInput}

/-! ### One step, case by case -/

theorem runOperation_ok {i : Instr} (h : decodeFields s.opc s.opa s.opb = .ok i) : runOperation s = exec i s := by
  rw [runOperation, h]

theorem runOperation_reserved (h : reservedOpcode s.opc) : runOperation s = raise .illegalCommand s := by
  rw [runOperation, decodeFields_reserved _ _ h]

theorem step_idle (hs : s.phase = .idle) (h : s.hostIn = []) : step s = .next s := by
  rw [step, h]
  exact if_pos hs

theorem step_waiting (hs : s.phase ≠ .idle) (h : s.hostIn = []) : step s = runOperation s := by
  rw [step, h]
  exact if_neg hs

theorem step_command (h : s.hostIn = .command w :: l) : step s = runOperation ((s.setHostIn l).accept w) := by
  rw [step, h]

/-- A command found in IDLE is accepted and its operation runs (R80). -/
theorem step_accepts (hs : s.phase = .idle) (h : s.hostIn = .command w :: l) : step s =
    runOperation { s with hostIn := l, opc := opcField w, opa := opaField w, opb := opbField w } :=
  (step_command h).trans (congrArg runOperation ((s.setHostIn l).accept_idle w hs))

/-- A command found while an operation waits is dropped, and the operation runs on (R80). -/
theorem step_drops (hs : s.phase ≠ .idle) (h : s.hostIn = .command w :: l) :
    step s = runOperation { s with hostIn := l } :=
  (step_command h).trans (congrArg runOperation ((s.setHostIn l).accept_busy w hs))

/-! ### The response word (R81) -/

/-- The response word as a number. -/
theorem toNat_rsp (s : State) :
    s.rsp.toNat = s.status.toNat * 2 ^ 17 + s.pcr.toNat * 2 ^ 16 + s.res.toNat := by
  have h : s.rsp.toNat = (s.status ++ BitVec.ofBool s.pcr ++ s.res).toNat := rfl
  rw [h, toNat_append, toNat_append, BitVec.toNat_ofBool]
  ring

theorem rsp_status (s : State) : s.rsp.extractLsb' 17 4 = s.status := by
  have := s.pcr.toNat_lt
  apply BitVec.eq_of_toNat_eq
  rw [BitVec.extractLsb'_toNat, toNat_rsp, Nat.shiftRight_eq_div_pow]
  omega

theorem rsp_pcr (s : State) : s.rsp.getLsbD 16 = s.pcr := by
  rw [State.rsp, BitVec.getLsbD_append, if_neg (by decide), BitVec.getLsbD_append, if_pos (by decide)]
  exact BitVec.getLsbD_ofBool _ _

theorem rsp_res (s : State) : s.rsp.extractLsb' 0 16 = s.res := BitVec.extractLsb'_append_eq_right

end Sys2Proof.Machine

namespace Sys2Proof

open Sys2Proof.Machine

/-- Settles O6: each kind of step runs the operation, and the operation of a decoded command is exec of it. -/
theorem stepRunsTheDecodedCommand : Obligations.StepRunsTheDecodedCommand :=
  ⟨fun _ _ _ _ hs h hi => (step_accepts hs h).trans (runOperation_ok hi), fun _ => step_idle,
    fun _ _ hs h hi => (step_waiting hs h).trans (runOperation_ok hi)⟩

/-- Settles O7: a dropped command leaves only the host's list shorter. -/
theorem commandIsAcceptedOnlyInIdle : Obligations.CommandIsAcceptedOnlyInIdle :=
  ⟨State.accept_idle, State.accept_busy, fun _ _ _ _ hs h hi => (step_drops hs h).trans (runOperation_ok hi)⟩

/-- Settles O8: the operation of a reserved opcode is `raise` of IllegalCommand, whose code is 6 (R210). -/
theorem reservedOpcodeEndsWithIllegalCommand : Obligations.ReservedOpcodeEndsWithIllegalCommand :=
  fun _ _ _ hs h hres => (step_accepts hs h).trans (runOperation_reserved hres)

/-- Settles O12: the three parts of the response word are read back one by one. -/
theorem responseWordPacksTheTriple : Obligations.ResponseWordPacksTheTriple := fun s =>
  ⟨rsp_status s, rsp_pcr s, rsp_res s, fun h => if_pos h, fun h => if_neg h⟩

end Sys2Proof
end

section
/-! The codec's functions as arithmetic (O13 to O15, O19, O20): `decT`, `encT` and their composition as numbers, and the
bounds of a TOP16 value. -/

namespace Sys2Proof.Machine

/-! ### `decT` (R112) -/

/-- The magnitude as a number: bits 11:0 of the word. -/
theorem magnitude_toNat (W : Word) : (magnitude W).toNat = W.toNat % 4096 := BitVec.extractLsb'_toNat 0 12 W

/-- The flag bits 15:13 play no part in the decoding. -/
theorem decT_congr {V W : Word} (h : V.extractLsb' 0 13 = W.extractLsb' 0 13) : decT V = decT W := by
  have low (U : Word) : U.getLsbD 12 = (U.extractLsb' 0 13).getLsbD 12 ∧
      magnitude U = (U.extractLsb' 0 13).extractLsb' 0 12 := by
    refine ⟨by simp, BitVec.eq_of_toNat_eq ?_⟩
    simp only [magnitude, BitVec.extractLsb'_toNat, Nat.shiftRight_zero]
    omega
  obtain ⟨hsignV, hmagV⟩ := low V
  obtain ⟨hsignW, hmagW⟩ := low W
  rw [decT, decT, hsignV, hsignW, hmagV, hmagW, h]

/-! ### `encT` (R114) -/

/-- The two bytes of `encT` and their word: no part reaches into the place of the next. -/
theorem pack_eq_add {s I d : Nat} (hI : I < 256) (hd : d < 16) :
    ((s <<< 4) ||| (I >>> 4)) * 256 + (((I &&& 0xF) <<< 4) ||| d) = s * 4096 + I * 16 + d ∧
    (s <<< 12) ||| (I <<< 4) ||| d = s * 4096 + I * 16 + d := by
  have hmod : I &&& 0xF = I % 16 := Nat.and_two_pow_sub_one_eq_mod I 4
  have hdiv : I >>> 4 = I / 16 := Nat.shiftRight_eq_div_pow I 4
  have hword : s <<< 12 ||| I <<< 4 = (s * 256 + I) <<< 4 := by
    rw [← Nat.shiftLeft_add_eq_or_of_lt (by rw [Nat.shiftLeft_eq]; omega)]
    simp only [Nat.shiftLeft_eq]
    omega
  rw [hmod, hdiv, hword, ← Nat.shiftLeft_add_eq_or_of_lt (by omega), ← Nat.shiftLeft_add_eq_or_of_lt hd,
    ← Nat.shiftLeft_add_eq_or_of_lt hd]
  simp only [Nat.shiftLeft_eq]
  omega

section Encoded
variable (s : BitVec 1) (I : BitVec 8) (F : BitVec 7)

theorem flagBits_encT : flagBits (encT s I F) = 0 := by
  apply BitVec.eq_of_toNat_eq
  simp only [flagBits, BitVec.extractLsb'_toNat, encT_toNat, Nat.shiftRight_eq_div_pow, BitVec.ofNat_eq_ofNat,
    BitVec.toNat_ofNat]
  omega

theorem signBit_encT : (encT s I F).extractLsb' 12 1 = s := by
  apply BitVec.eq_of_toNat_eq
  simp only [BitVec.extractLsb'_toNat, encT_toNat, Nat.shiftRight_eq_div_pow]
  omega

theorem magnitude_encT : (magnitude (encT s I F)).toNat = 16 * I.toNat + (decimalBin F).toNat := by
  rw [magnitude_toNat, encT_toNat]
  omega

/-- What decoding an encoded threshold gives, in sixteenths of a degree (R121). -/
theorem decT_encT : (decT (encT s I F)).toNat =
    if s = 1 then 4096 - (16 * I.toNat + (decimalBin F).toNat) else 16 * I.toNat + (decimalBin F).toNat := by
  have hsign : (encT s I F).getLsbD 12 = true ↔ s = 1 := by
    have hone : (1 : BitVec 1).toNat = 1 := rfl
    rw [← BitVec.toNat_inj, BitVec.getLsbD, Nat.testBit_eq_decide_div_mod_eq, encT_toNat, decide_eq_true_eq, hone]
    omega
  simp only [decT_toNat, hsign, magnitude_encT]

end Encoded

/-! ### TOP16 values (R9, R120) -/

/-- A valid operand lies between -255.99 and 255.99 degrees. -/
theorem topVal_bounds {w : Word} (h : topValid w = true) : -25599 ≤ topVal w ∧ topVal w ≤ 25599 := by
  have hF : (topFrac w).toNat ≤ 99 := (topValid_iff w).1 h
  have hI := (topInt w).isLt
  unfold topVal
  obtain hs | hs : (topSign w).toNat = 0 ∨ (topSign w).toNat = 1 := by omega
  all_goals
    rw [hs]
    omega

end Sys2Proof.Machine

namespace Sys2Proof

open Sys2Proof.Machine

/-- Settles O15: as numbers the two packings are the sum that `encT` is. -/
theorem encTIsThePackFormula : Obligations.EncTIsThePackFormula := by
  refine ⟨fun s I F => ?_, rfl⟩
  obtain ⟨hbytes, hword⟩ := pack_eq_add (s := s.toNat) I.isLt (decimalBin F).isLt
  rw [hbytes, hword]
  exact ⟨encT_toNat s I F, encT_toNat s I F, flagBits_encT s I F, signBit_encT s I F⟩

/-- Settles O19: the claims about F are claims about the ranges of `decimalBin`'s table. -/
theorem decodingAnEncodedThreshold : Obligations.DecodingAnEncodedThreshold := by
  intro s I F hF
  have hclear (hs : s = 0) : (decT (encT s I F)).toNat = 16 * I.toNat + (decimalBin F).toNat := by
    rw [decT_encT, if_neg (by rw [hs]; decide)]
  refine ⟨hclear, fun hs => by rw [decT_encT, if_pos hs], ?_, fun hs hexact => ?_, fun hs hnear => ?_⟩
  · rw [decimalBin_toNat]
    split_ifs <;> omega
  · rw [hclear hs, decimalBin_toNat]
    split_ifs <;> omega
  · rw [hclear hs, decimalBin_toNat]
    split_ifs <;> omega

/-- Settles O20: the difference stays within twice the bound of a value. -/
theorem gapArithmeticIsBounded : Obligations.GapArithmeticIsBounded := by
  intro u l hu hl
  obtain ⟨hulo, huhi⟩ := topVal_bounds hu
  obtain ⟨hllo, hlhi⟩ := topVal_bounds hl
  exact ⟨hulo, huhi, by omega, by omega⟩

/-- Settles O13: each range of the table is one branch of `decimalBin`. -/
theorem decimalBinFollowsItsTable : Obligations.DecimalBinFollowsItsTable := fun _ =>
  ⟨fun h => if_pos h,
    fun hlo hhi => by rw [decimalBin, if_neg (by omega), if_pos hhi],
    fun hlo hhi => by rw [decimalBin, if_neg (by omega), if_neg (by omega), if_pos hhi],
    fun hlo => by rw [decimalBin, if_neg (by omega), if_neg (by omega), if_neg (by omega)]⟩

/-- Settles O14: the ranges follow from the two formulas, the magnitude being below 4096. -/
theorem decTIsTheLiteralFormula : Obligations.DecTIsTheLiteralFormula := by
  intro W
  have hm : (magnitude W).toNat < 4096 := (magnitude W).isLt
  have hset (h : W.getLsbD 12 = true) : (decT W).toNat = 4096 - (magnitude W).toNat := by rw [decT_toNat, if_pos h]
  have hclear (h : W.getLsbD 12 = false) : (decT W).toNat = (magnitude W).toNat := by
    rw [decT_toNat, if_neg (Bool.eq_false_iff.1 h)]
  refine ⟨hset, hclear, ?_, fun h => by rw [hclear h]; omega, fun h => by rw [hset h]; omega, fun V => decT_congr⟩
  simp only [BitVec.extractLsb'_toNat, Nat.shiftRight_eq_div_pow]
  omega

end Sys2Proof
end

section
/-! The laws of the field functions (O17), bit by bit. -/

namespace Sys2Proof.Machine

variable {f g : CfgField} {W u v : Word}

/-- A field read fits its width (R117). -/
theorem cfgGet_fits (f : CfgField) (W : Word) : (cfgGet f W).toNat < 2 ^ fieldWidth f := by
  have hmask : (fieldMask f).toNat >>> fieldShift f < 2 ^ fieldWidth f := by cases f <;> decide
  rw [cfgGet, BitVec.toNat_ushiftRight, BitVec.toNat_and, Nat.shiftRight_and_distrib]
  exact Nat.and_lt_two_pow _ hmask

/-- Outside the field the insert keeps the word (R26). -/
theorem getLsbD_cfgPut_outside (hv : v.toNat < 2 ^ fieldWidth f) {k : Nat}
    (hk : k < fieldShift f ∨ fieldShift f + fieldWidth f ≤ k) : (cfgPut f W v).getLsbD k = W.getLsbD k := by
  by_cases h16 : k < 16
  · rw [getLsbD_cfgPut f W hv h16, if_neg (by omega)]
  · rw [BitVec.getLsbD_of_ge _ _ (by omega), BitVec.getLsbD_of_ge _ _ (by omega)]

/-- The other fields keep their values: they share no bit with the one put. -/
theorem cfgGet_cfgPut_other (hfg : f ≠ g) (hv : v.toNat < 2 ^ fieldWidth f) :
    cfgGet g (cfgPut f W v) = cfgGet g W := by
  have hdisjoint := fields_disjoint hfg
  apply BitVec.eq_of_getLsbD_eq
  intro k _
  rw [getLsbD_cfgGet, getLsbD_cfgGet]
  by_cases hk : k < fieldWidth g
  · rw [getLsbD_cfgPut_outside hv (by omega)]
  · simp [hk]

/-- The bits of no field are kept: every bit of the field is clear in 0xF810. -/
theorem cfgPut_and_unused (hv : v.toNat < 2 ^ fieldWidth f) : cfgPut f W v &&& 0xF810 = W &&& 0xF810 := by
  have hclear : fieldMask f &&& 0xF810 = 0 := by cases f <;> decide
  apply BitVec.eq_of_getLsbD_eq
  intro k _
  rw [BitVec.getLsbD_and, BitVec.getLsbD_and]
  by_cases hk : fieldShift f ≤ k ∧ k < fieldShift f + fieldWidth f
  · have hbit := congrArg (·.getLsbD k) hclear
    simp only [BitVec.getLsbD_and, getLsbD_fieldMask, hk, decide_true, Bool.true_and, BitVec.ofNat_eq_ofNat,
      BitVec.getLsbD_zero] at hbit
    simp [hbit]
  · rw [getLsbD_cfgPut_outside hv (by omega)]

/-- Putting back what was read changes nothing. -/
theorem cfgPut_cfgGet (f : CfgField) (W : Word) : cfgPut f W (cfgGet f W) = W := by
  apply BitVec.eq_of_getLsbD_eq
  intro k hk
  rw [getLsbD_cfgPut f W (cfgGet_fits f W) hk]
  split
  · next h =>
    rw [getLsbD_cfgGet, decide_eq_true (by omega), Bool.true_and, Nat.add_sub_cancel' h.1]
  · rfl

/-- A second insert overrides the first. -/
theorem cfgPut_cfgPut (hu : u.toNat < 2 ^ fieldWidth f) (hv : v.toNat < 2 ^ fieldWidth f) :
    cfgPut f (cfgPut f W u) v = cfgPut f W v := by
  apply BitVec.eq_of_getLsbD_eq
  intro k hk
  rw [getLsbD_cfgPut f _ hv hk, getLsbD_cfgPut f W hv hk]
  split
  · rfl
  · exact getLsbD_cfgPut_outside hu (by omega)

end Sys2Proof.Machine

namespace Sys2Proof

open Sys2Proof.Machine

/-- Settles O17: one lemma per law. -/
theorem fieldFunctionsObeyTheirLaws : Obligations.FieldFunctionsObeyTheirLaws := fun f _ W _ _ hfg hu hv =>
  ⟨cfgGet_cfgPut f W hv, cfgGet_cfgPut_other hfg hv, cfgPut_and_unused hv, cfgPut_cfgGet f W, cfgPut_cfgPut hu hv⟩

end Sys2Proof
end

section
/-! The five codec commands from IDLE (O22 to O26): their plans end at once, with OK or with InvalidParameter. -/

namespace Sys2Proof.Machine

variable {i : Instr} {s : State} {p : Plan} {v : Word}

/-- A command whose plan is to end with OK answers its value and writes the response only (R219). -/
theorem exec_ends_ok (hs : s.phase = .idle) (hp : i.planAt s.params s.cfgBuf .idle = some (.finish .ok v)) :
    exec i s = .next (s.ended 0 false v) := exec_begins (.inl hs) (hs ▸ hp)

/-- A command whose plan is to end with InvalidParameter answers status 1 and writes the response only (R218). -/
theorem exec_ends_invalid (hs : s.phase = .idle)
    (hp : i.planAt s.params s.cfgBuf .idle = some (.finish .invalidParameter 0)) :
    exec i s = .next (s.ended 1 false 0) := exec_begins (.inl hs) (hs ▸ hp)

/-! ### The plan by the validity of the operands -/

variable {a b : Word} {f : CfgField}

theorem validated_valid {valid : Bool} (h : valid = true) : Plan.validated valid v = .finish .ok v := if_pos h

theorem validated_invalid {valid : Bool} (h : ¬ valid = true) : Plan.validated valid v = .finish .invalidParameter 0 :=
  if_neg h

theorem fieldOfId_eq_some {n : Nat} (h : idOfField f = n) : fieldOfId n = some f := h ▸ fieldOfId_idOfField f

theorem cfgGetPlan_field (h : fieldOfId b.toNat = some f) : cfgGetPlan a b = .finish .ok (cfgGet f a) := by
  rw [cfgGetPlan, h]

theorem cfgGetPlan_none (h : fieldOfId b.toNat = none) : cfgGetPlan a b = .finish .invalidParameter 0 := by
  rw [cfgGetPlan, h]

theorem cfgPutPlan_field (h : fieldOfId (fidvalId b).toNat = some f) : cfgPutPlan a b =
    .validated (enumValid f ((fidvalValue b).setWidth 16)) (cfgPut f a ((fidvalValue b).setWidth 16)) := by
  rw [cfgPutPlan, h]

theorem cfgPutPlan_none (h : fieldOfId (fidvalId b).toNat = none) : cfgPutPlan a b = .finish .invalidParameter 0 := by
  rw [cfgPutPlan, h]

/-- The value of a FIDVAL16 operand fits a field as the byte it is (R82). -/
theorem enumValid_byte_iff (f : CfgField) (x : Byte) :
    enumValid f (x.setWidth 16) = true ↔ x.toNat < 2 ^ fieldWidth f := by
  rw [enumValid_iff, BitVec.toNat_setWidth, Nat.mod_eq_of_lt (by omega)]

end Sys2Proof.Machine

namespace Sys2Proof

open Sys2Proof.Machine

/-- Settles O22. -/
theorem decTempResult : Obligations.DecTempResult := fun _ _ hs => exec_ends_ok hs rfl

/-- Settles O23: the operand is valid exactly when F is at most 99. -/
theorem encThrResult : Obligations.EncThrResult := fun a _ hs =>
  ⟨fun hF => exec_ends_ok hs (congrArg some (validated_valid ((topValid_iff a).2 hF))),
    fun hF => exec_ends_invalid hs (congrArg some (validated_invalid (mt (topValid_iff a).1 (by omega))))⟩

/-- Settles O24. -/
theorem decFlagsResult : Obligations.DecFlagsResult := fun _ _ hs => exec_ends_ok hs rfl

/-- Settles O25: ids 0 to 7 name a field, no id above does. -/
theorem cfgGetResult : Obligations.CfgGetResult := fun _ _ _ hs =>
  ⟨fun _ hf => exec_ends_ok hs (congrArg some (cfgGetPlan_field (fieldOfId_eq_some hf))),
    fun hb => exec_ends_invalid hs (congrArg some (cfgGetPlan_none (fieldOfId_none hb)))⟩

/-- Settles O26: a named field, then whether the value fits it. -/
theorem cfgPutResult : Obligations.CfgPutResult := by
  intro a b s hs
  refine ⟨fun f hf hfits => exec_ends_ok hs (congrArg some ?_),
    fun f hf hwide => exec_ends_invalid hs (congrArg some ?_),
    fun hb => exec_ends_invalid hs (congrArg some (cfgPutPlan_none (fieldOfId_none hb)))⟩
  · exact (cfgPutPlan_field (fieldOfId_eq_some hf)).trans (validated_valid ((enumValid_byte_iff f _).2 hfits))
  · exact (cfgPutPlan_field (fieldOfId_eq_some hf)).trans
      (validated_invalid (mt (enumValid_byte_iff f _).1 (Nat.not_lt.2 hwide)))

end Sys2Proof
end

section
/-! The configuration register: the merge (O18), the lock status of ungated commands (O38), the setters, CLEAR_INT and
the getters from IDLE (O27 to O29). -/

namespace Sys2Proof.Machine

variable {i : Instr} {f : CfgField} {g : Bool} {a : Word} {s : State}

/-- A bit outside a field's mask lies below or above the field (R27). -/
theorem outside_of_fieldMask {k : Nat} (hk : (fieldMask f).getLsbD k = false) :
    k < fieldShift f ∨ fieldShift f + fieldWidth f ≤ k := by
  rw [getLsbD_fieldMask, Bool.and_eq_false_iff, decide_eq_false_iff_not, decide_eq_false_iff_not] at hk
  omega

/-- Only RegisterLocked has the code 2 (R210). -/
theorem status_code_eq_two {st : Status} (h : st.code = 2) : st = .registerLocked := by
  cases st with
  | registerLocked => rfl
  | ok | invalidParameter | thresholdRangeError | busError | identityMismatch | illegalCommand => cases h

/-! ### The sequences begun in IDLE issue the read of CONFIG (R140, R152, R153) -/

theorem exec_setter_idle (hi : i.setter? = some (f, g, a)) (hs : s.phase = .idle) :
    exec i s = rmwRead f g a (s.issue .rdCfg (s.readReq Config.regConfig)) := by
  rw [exec_setter hi, rmw, hs]

theorem exec_clearInt_idle (hs : s.phase = .idle) :
    exec .clearInt s = clearIntRead (s.issue .rdCfg (s.readReq Config.regConfig)) := by
  rw [exec, execClearInt, hs]

theorem exec_getter_idle (hi : i.getter? = some f) (hs : s.phase = .idle) :
    exec i s = getRead f (s.issue .rdCfg (s.readReq Config.regConfig)) := by
  rw [exec_getter hi, getField, hs]

end Sys2Proof.Machine

namespace Sys2Proof

open Sys2Proof.Machine

/-- Settles O18. -/
theorem mergeKeepsEveryOtherBit : Obligations.MergeKeepsEveryOtherBit := fun _ _ _ _ hv hk =>
  getLsbD_cfgPut_outside hv (outside_of_fieldMask hk)

/-- Settles O38: a command that has ended has ended with one status, RegisterLocked only if it is gated. -/
theorem ungatedCommandsNeverReportTheLock : Obligations.UngatedCommandsNeverReportTheLock := by
  intro i s t hungated h hidle h2
  obtain ⟨hwaits, -⟩ | ⟨u, st, v, rfl, -, hgated⟩ := exec_endsOrWaits h
  · exact hwaits hidle
  · exact Bool.false_ne_true (hungated.symm.trans (hgated (status_code_eq_two h2)))

/-- Settles O27: with the word read, each of the three outcomes of `rmw`'s tests is the branch its conditions pick. -/
theorem fieldSettersReadGuardValidateWrite : Obligations.FieldSettersReadGuardValidateWrite := by
  intro i f g a s hi hs
  refine afterRead_awaitRead (exec_setter_idle hi hs) fun b0 b1 ho => ⟨fun hg hl => ?_, fun hl hwide => ?_,
    fun hl hfits => ?_⟩
  · exact ho.trans (rmwCheck_locked hg ((locked_iff _).2 hl))
  · exact ho.trans (rmwCheck_invalid (fun hg => locked_eq_false (hl hg))
      (mt (enumValid_iff f a).1 (Nat.not_lt.2 hwide)))
  · exact afterWrite_last (ho.trans
      (rmwCheck_valid (fun hg => locked_eq_false (hl hg)) ((enumValid_iff f a).2 hfits)))

/-- Settles O28: nothing is tested between the read and the write. -/
theorem clearIntReadsAndWritesBack : Obligations.ClearIntReadsAndWritesBack := fun _ hs =>
  afterRead_awaitRead (exec_clearInt_idle hs) fun _ _ ho => afterWrite_last ho

/-- Settles O29: with the word read, a getter answers at once. -/
theorem fieldGettersReadAndExtract : Obligations.FieldGettersReadAndExtract := fun _ _ _ hi hs =>
  afterRead_awaitRead (exec_getter_idle hi hs) fun _ _ ho => ho

end Sys2Proof
end

section
/-! Answered operations end (O53): a plan that asks at most `n` times ends when `n` requests are answered, and the plan
of every command asks at most three times (R250). -/

namespace Sys2Proof.Machine

namespace Plan

/-- Whatever is answered, the plan issues at most so many requests. -/
def AsksAtMost : Nat → Plan → Prop
  | _, .finish _ _ => True
  | n, .assign _ p => p.AsksAtMost n
  | 0, .ask _ _ _ => False
  | n + 1, .ask _ _ k => ∀ a, (k a).AsksAtMost n

variable {n : Nat}

@[simp] theorem asksAtMost_finish (st : Status) (v : Word) : (finish st v).AsksAtMost n := by
  cases n <;> trivial

@[simp] theorem asksAtMost_assign (x : Assign) (p : Plan) : (assign x p).AsksAtMost n ↔ p.AsksAtMost n := by
  cases n <;> exact Iff.rfl

@[simp] theorem asksAtMost_read (ph : Phase) (reg : Byte) (k : Word → Plan) :
    (read ph reg k).AsksAtMost (n + 1) ↔ ∀ bs, (k (wordOfBytes bs)).AsksAtMost n := by
  refine ⟨fun h bs => h (.data bs), fun h a => ?_⟩
  cases a with
  | data bs => exact h bs
  | ack => exact asksAtMost_finish _ _
  | error => exact asksAtMost_finish _ _

@[simp] theorem asksAtMost_write (ph : Phase) (reg : Byte) (bs : List Byte) (p : Plan) :
    (write ph reg bs p).AsksAtMost (n + 1) ↔ p.AsksAtMost n := by
  refine ⟨fun h => h .ack, fun h a => ?_⟩
  cases a with
  | data _ => exact asksAtMost_finish _ _
  | ack => exact h
  | error => exact asksAtMost_finish _ _

@[simp] theorem asksAtMost_ite {c : Prop} [Decidable c] {p q : Plan} :
    (if c then p else q).AsksAtMost n ↔ (c → p.AsksAtMost n) ∧ (¬ c → q.AsksAtMost n) := by
  split <;> simp [*]

end Plan

/-- A command asks at most three times (R250), whatever it reads. -/
theorem planAt_asksAtMost (ps : Params) (cfg : Word) (i : Instr) :
    ∀ p, i.planAt ps cfg .idle = some p → p.AsksAtMost 3 := by
  induction i using Instr.cases_shape with
  | busFree i hi =>
    intro p h
    obtain ⟨st, v, rfl⟩ | ⟨a, rfl⟩ := Instr.planAt_busFree hi h <;> simp
  | setter i f g a hi =>
    intro p h
    rw [Instr.planAt_setter hi] at h
    cases h
    simp [rmwPlan, rmwCheckPlan, rmwWritePlan]
  | getter i f hi =>
    intro p h
    rw [Instr.planAt_getter hi] at h
    cases h
    simp [getPlan]
  | init =>
    intro p h
    cases h
    simp [initPlan, initPlan2]
  | temp i hi =>
    intro p h
    obtain ⟨g, hg⟩ := Instr.planAt_temp hi
    rw [hg] at h
    cases h
    simp [tempPlan]
  | setResolution a =>
    intro p h
    cases h
    simp [resPlan, resWritePlan]
  | setWindow u l =>
    intro p h
    cases h
    simp [windowPlan, windowCheckPlan, windowWrite1Plan, windowWrite2Plan]
  | setCrit a =>
    intro p h
    cases h
    simp [critPlan, critCheckPlan, critWritePlan]
  | clearInt =>
    intro p h
    cases h
    simp [clearIntPlan, clearIntWritePlan]

/-- The next `n` requests are answered: by the script, or by an attached device when nothing is scripted (log 5). -/
def State.Answers (n : Nat) (s : State) : Prop :=
  (∃ (as : List PortAnswer) (es : List BusEvent), as.length = n ∧ s.script = as.map .answer ++ es) ∨
  (s.script = [] ∧ ∃ A, s.refDev = some A)

theorem State.Answers.assign {n : Nat} {s : State} (h : s.Answers n) (x : Assign) : (s.assign x).Answers n := by
  cases x <;> exact h

/-- The first request is answered, and those after it are still to be answered. -/
theorem State.Answers.next {n : Nat} {s : State} (h : s.Answers (n + 1)) (req : BusRequest) :
    ∃ a, s.answer req = some a ∧ (s.served req).Answers n := by
  obtain ⟨as, es, hlen, hscript⟩ | ⟨hscript, A, hdev⟩ := h
  · obtain ⟨a, as, rfl⟩ := List.exists_cons_of_length_eq_add_one hlen
    have hserve : serve req s.refDev s.script s.devMem = (some (req.deliver a), as.map .answer ++ es, s.devMem) := by
      rw [hscript, List.map_cons, List.cons_append, serve_answer]
    exact ⟨_, congrArg Prod.fst hserve, .inl ⟨as, es, by simpa using hlen, by rw [State.served_script, hserve]⟩⟩
  · have hserve := serve_nil_some req s.devMem A
    rw [← hscript, ← hdev] at hserve
    exact ⟨_, congrArg Prod.fst hserve, .inr ⟨by rw [State.served_script, hserve, hscript], A, hdev⟩⟩

/-- A plan whose requests are all answered ends in IDLE. -/
theorem Plan.run_ends : ∀ (p : Plan) (n : Nat) (s : State), p.AsksAtMost n → s.Answers n →
    ∃ t, p.run s = .next t ∧ t.phase = .idle
  | .finish st v, _, s, _, _ => ⟨s.finish st v, rfl, rfl⟩
  | .assign x p, n, s, hp, hs => p.run_ends n (s.assign x) ((asksAtMost_assign x p).1 hp) (hs.assign x)
  | .ask ph req k, n + 1, s, hp, hs => by
    obtain ⟨a, ha, hrest⟩ := State.Answers.next (s := s.issue ph (req s.devAddr)) hs (req s.devAddr)
    obtain ⟨t, ht, hidle⟩ := (k a).run_ends n _ (hp a) hrest
    exact ⟨t, (await_some _ ha).trans ht, hidle⟩

/-- A command started in IDLE ends when three requests are answered. -/
theorem exec_ends {s : State} (i : Instr) (hs : s.phase = .idle) (h : s.Answers 3) :
    ∃ t, exec i s = .next t ∧ t.phase = .idle := by
  obtain ⟨p, hp⟩ := Instr.planAt_idle i s.params
  rw [exec_begins (.inl hs) (hs ▸ hp _)]
  exact p.run_ends 3 s (planAt_asksAtMost s.params s.cfgBuf i p (hp _)) h

end Sys2Proof.Machine

namespace Sys2Proof

open Sys2Proof.Machine

/-- Settles O53: three scripted answers, and a device with nothing scripted, each answer three requests. -/
theorem answeredOperationsEnd : Obligations.AnsweredOperationsEnd :=
  ⟨fun i _ x y z es hs hscript => exec_ends i hs (.inl ⟨[x, y, z], es, rfl, hscript⟩),
    fun i _ A hs hscript hdev => exec_ends i hs (.inr ⟨hscript, A, hdev⟩)⟩

end Sys2Proof
end

section
/-! The device commands (O21, O30 to O36, O42): each sequence begun in IDLE and its tests, the gap between encoded
thresholds, and the transactions a command has issued. -/

namespace Sys2Proof.Machine

/-! ### Encoded thresholds without a sign (R111, R114) -/

/-- The quarter-degree code never falls as F rises (R111). -/
theorem decimalBin_mono {F G : BitVec 7} (h : F.toNat ≤ G.toNat) : (decimalBin F).toNat ≤ (decimalBin G).toNat := by
  simp only [decimalBin_toNat]
  split_ifs <;> omega

/-- The quarter-degree code is at most three quarters (R111). -/
theorem decimalBin_le (F : BitVec 7) : (decimalBin F).toNat ≤ 12 := by
  rw [decimalBin_toNat]
  split_ifs <;> omega

/-- The word of a non-negative operand, in sixteenths of a degree. -/
theorem encTop_toNat_of_nonneg {w : Word} (h : topSign w = 0) :
    (encTop w).toNat = 16 * (topInt w).toNat + (decimalBin (topFrac w)).toNat := by
  simp [encTop, encT_toNat, h, Nat.mul_comm]

/-- The value of a non-negative operand, in hundredths of a degree (R9). -/
theorem topVal_of_nonneg {w : Word} (h : topSign w = 0) :
    topVal w = 100 * (topInt w).toNat + (topFrac w).toNat := by simp [topVal, h]

/-! ### The sequences begun in IDLE (R180 to R185) -/

section Idle

variable {s : State} (hs : s.phase = .idle)
include hs

theorem exec_init_idle : exec .init s = initRead1 (s.issue .rdData (s.readReq Config.regDeviceId)) := by
  rw [exec, execInit, hs]

theorem readTemperature_idle (g : Word → Word) :
    readTemperature g s = tempRead g (s.issue .rdData (s.readReq Config.regTemperature)) := by
  rw [readTemperature, hs]

theorem exec_setResolution_idle (a : Word) : exec (.setResolution a) s = resCheck a s := by
  rw [exec, execSetResolution, hs]

theorem exec_setWindow_idle (u l : Word) :
    exec (.setWindow u l) s = windowRead u l (s.issue .rdCfg (s.readReq Config.regConfig)) := by
  rw [exec, execSetWindow, hs]

theorem exec_setCrit_idle (a : Word) :
    exec (.setCrit a) s = critRead a (s.issue .rdCfg (s.readReq Config.regConfig)) := by
  rw [exec, execSetCrit, hs]

/-- SET_ADDR goes straight to its test (R186). -/
theorem exec_setAddr_idle (a : Word) : exec (.setAddr a) s = (setAddrPlan a).run s :=
  exec_begins (.inl hs) (hs ▸ rfl)

end Idle

/-! ### The tests on what was read or given -/

/-- INIT's test of the first identity register is of the byte that DEVID_BYTE_INDEX names (R180). -/
theorem devIdMatches_wordOf (p : Params) (d0 d1 : Byte) : devIdMatches p (wordOf d0 d1) = true ↔
    (if p.devIdByteIndex = 0 then d0 else d1) = p.expectedDeviceId := by
  rw [devIdMatches, byteAt, hiByte_wordOf, loByte_wordOf, beq_iff_eq]

/-- The flag bits of a word are the top bits of the byte received first (R116, R182). -/
theorem flagBits_wordOf (b0 b1 : Byte) : flagBits (wordOf b0 b1) = b0.extractLsb' 5 3 := by
  apply BitVec.eq_of_toNat_eq
  simp only [flagBits, wordOf, BitVec.extractLsb'_toNat, toNat_append, Nat.shiftRight_eq_div_pow]
  omega

theorem setAddrPlan_valid {a : Word} (h : addrValid a = true) :
    setAddrPlan a = .assign (.devAddr (a.setWidth 7)) (.finish .ok 0) := if_pos h

theorem setAddrPlan_invalid {a : Word} (h : ¬ addrValid a = true) : setAddrPlan a = .finish .invalidParameter 0 :=
  if_neg h

/-! ### What GET_TEMP and GET_FLAGS share -/

/-- The read of TEMPERATURE, begun in IDLE, answers `g` of the word read (R181, R182). -/
theorem readTemperature_afterRead {s : State} (hs : s.phase = .idle) (g : Word → Word) :
    (s.issue .rdData (s.readReq Config.regTemperature)).AfterRead (s.readReq Config.regTemperature)
      (readTemperature g s) fun b0 b1 t =>
        readTemperature g s = .next (State.ended { t with rdBuf := b0 ++ b1 } 0 false (g (wordOf b0 b1))) :=
  afterRead_awaitRead (readTemperature_idle hs g) fun _ _ ho => ho

end Sys2Proof.Machine

namespace Sys2Proof

open Sys2Proof.Machine

/-- Settles O42: the list so far is the first `k` of the command's list, all of them when it has ended with OK. -/
theorem transactionsFollowTheList : Obligations.TransactionsFollowTheList := by
  intro i s t hs h
  obtain ⟨k, htrace, -, hend⟩ := exec_issued hs h
  refine ⟨_, htrace, List.take_prefix _ _, fun hidle hok => ?_⟩
  obtain ⟨-, ⟨-, hk⟩ | h4 | ⟨hne, -⟩⟩ | ⟨-, -, -, -, hwaits, -⟩ := hend
  · rw [hk, List.take_length]
  · rw [hok] at h4
    cases h4
  · exact absurd hok hne
  · exact absurd hidle hwaits

/-- Settles O21: either the integer parts differ by two and the code of F does not fall, or they differ by three and
three quarters at most are lost. -/
theorem encodedWindowKeepsItsGap : Obligations.EncodedWindowKeepsItsGap := by
  intro u l hu hl hvu hvl hgap
  have hFu : (topFrac u).toNat ≤ 99 := (topValid_iff u).1 hvu
  have hFl : (topFrac l).toNat ≤ 99 := (topValid_iff l).1 hvl
  rw [topVal_of_nonneg hu, topVal_of_nonneg hl] at hgap
  rw [encTop_toNat_of_nonneg hu, encTop_toNat_of_nonneg hl]
  by_cases hF : (topFrac l).toNat ≤ (topFrac u).toNat
  · have hcode := decimalBin_mono hF
    omega
  · have hcode := decimalBin_le (topFrac l)
    omega

/-- Settles O30: each test is of one byte of the word just read. -/
theorem initComparesBothIdentities : Obligations.InitComparesBothIdentities := by
  intro s hs
  refine afterRead_awaitRead (exec_init_idle hs) fun d0 d1 ho => ?_
  have hdev := devIdMatches_wordOf s.params d0 d1
  refine ⟨fun hne => ho.trans (if_neg (mt hdev.1 hne)), fun heq => ?_⟩
  refine afterRead_awaitRead (ho.trans (if_pos (hdev.2 heq))) fun m0 m1 ho => ?_
  have hmfr := mfrIdMatches_wordOf s.params m0 m1
  exact ⟨fun hne => ho.trans (if_neg (mt hmfr.1 hne)), fun heq => ho.trans (if_pos (hmfr.2 heq))⟩

/-- Settles O31. -/
theorem getTempReadsAndDecodes : Obligations.GetTempReadsAndDecodes := fun _ hs => readTemperature_afterRead hs _

/-- Settles O32: the top bits of the word are those of its first byte. -/
theorem getFlagsReadsTheTopBits : Obligations.GetFlagsReadsTheTopBits := by
  intro s hs
  have h := readTemperature_afterRead hs fun w => (flagBits w).setWidth 16
  simp only [flagBits_wordOf] at h
  exact h

/-- Settles O33: the code is valid exactly when it is at most 3. -/
theorem setResolutionWritesOneByte : Obligations.SetResolutionWritesOneByte := fun a _ hs =>
  ⟨fun hbig => (exec_setResolution_idle hs a).trans (resCheck_invalid (mt (resValid_iff a).1 (Nat.not_le.2 hbig))),
    fun hle => afterWrite_last ((exec_setResolution_idle hs a).trans (resCheck_valid ((resValid_iff a).2 hle)))⟩

/-- Settles O34: with the word read, each of the four outcomes of the tests is the branch its conditions pick. -/
theorem setWindowTestsThenWritesBoth : Obligations.SetWindowTestsThenWritesBoth := by
  intro hi lo s hs
  refine afterRead_awaitRead (exec_setWindow_idle hs hi lo) fun b0 b1 ho => ⟨fun hl => ?_, fun hl hF => ?_,
    fun hl hFu hFl hgap => ?_, fun hl hFu hFl hgap => ?_⟩
  · exact ho.trans (windowCheck_locked ((locked_iff _).2 hl))
  · refine ho.trans (windowCheck_invalid (locked_eq_false hl) ?_)
    rw [topValid_iff, topValid_iff]
    omega
  · exact ho.trans (windowCheck_gap (locked_eq_false hl) ⟨(topValid_iff hi).2 hFu, (topValid_iff lo).2 hFl⟩
      (mt (gapOk_iff hi lo).1 (Int.not_le.2 hgap)))
  · exact afterWrite_awaitWrite (ho.trans (windowCheck_valid (locked_eq_false hl)
      ⟨(topValid_iff hi).2 hFu, (topValid_iff lo).2 hFl⟩ ((gapOk_iff hi lo).2 hgap))) afterWrite_last

/-- Settles O35: with the word read, each of the three outcomes of the tests is the branch its conditions pick. -/
theorem setCritTestsThenWrites : Obligations.SetCritTestsThenWrites := by
  intro a s hs
  refine afterRead_awaitRead (exec_setCrit_idle hs a) fun b0 b1 ho => ⟨fun hl => ?_, fun hl hF => ?_, fun hl hF => ?_⟩
  · exact ho.trans (critCheck_locked ((locked_iff _).2 hl))
  · exact ho.trans (critCheck_invalid (locked_eq_false hl) (mt (topValid_iff a).1 (Nat.not_le.2 hF)))
  · exact afterWrite_last (ho.trans (critCheck_valid (locked_eq_false hl) ((topValid_iff a).2 hF)))

/-- Settles O36: the operand is valid exactly when it is at most 0x7F. -/
theorem setAddrWritesTheBusAddress : Obligations.SetAddrWritesTheBusAddress := by
  intro a s hs
  rw [exec_setAddr_idle hs]
  refine ⟨fun hle => ?_, fun hbig => ?_⟩
  · rw [setAddrPlan_valid ((addrValid_iff a).2 hle), BitVec.setWidth_eq_extractLsb' (by decide)]
    rfl
  · rw [setAddrPlan_invalid (mt (addrValid_iff a).1 (Nat.not_le.2 hbig))]
    rfl

end Sys2Proof
end

section
/-! Progress (O51): a waiting command waits in a phase of its own, in which it has a plan, and every plan answers a next
state. -/

namespace Sys2Proof.Machine

theorem busPhases_busFree {i : Instr} (hi : i.busFree = true) : i.busPhases = [] := by
  cases i <;> simp only [Instr.busFree, Bool.false_eq_true] at hi <;> rfl

/-- A command has a plan in each phase in which it waits for an answer (R162). -/
theorem planAt_busPhases (ps : Params) (cfg : Word) (i : Instr) :
    ∀ ph ∈ i.busPhases, ∃ p, i.planAt ps cfg ph = some p := by
  induction i using Instr.cases_shape with
  | busFree i hi => simp [busPhases_busFree hi]
  | setter i f g a hi => simp [(setter_facts hi).1, Instr.planAt_setter hi, rmwPlanAt]
  | getter i f hi => simp [busPhases_getter hi, Instr.planAt_getter hi, getPlanAt]
  | temp i hi => obtain rfl | rfl := hi <;> simp [Instr.busPhases, Instr.planAt, tempPlanAt]
  | init => simp [Instr.busPhases, Instr.planAt, initPlanAt]
  | setResolution a => simp [Instr.busPhases, Instr.planAt, resPlanAt]
  | setWindow u l => simp [Instr.busPhases, Instr.planAt, windowPlanAt]
  | setCrit a => simp [Instr.busPhases, Instr.planAt, critPlanAt]
  | clearInt => simp [Instr.busPhases, Instr.planAt, clearIntPlanAt]

/-- A wait answers a next state if whatever follows the answer does. -/
theorem await_answers_next {req : BusRequest} {k : PortAnswer → State → Result}
    (hk : ∀ a s, ∃ t, k a s = .next t) (s : State) : ∃ t, await req k s = .next t := by
  cases h : s.answer req with
  | none => exact ⟨_, await_none k h⟩
  | some a => rw [await_some k h]; exact hk a _

namespace Plan

/-- A plan begun answers a next state: it ends or waits (R51, R218, R219). -/
theorem run_answers_next : ∀ (p : Plan) (s : State), ∃ t, p.run s = .next t
  | .finish st v, s => ⟨s.finish st v, rfl⟩
  | .assign x p, s => p.run_answers_next (s.assign x)
  | .ask _ _ k, _ => await_answers_next (fun a => (k a).run_answers_next) _

/-- So does a plan whose first request is outstanding. -/
theorem resume_answers_next : ∀ (p : Plan) (s : State), ∃ t, p.resume s = .next t
  | .finish st v, s => ⟨s.finish st v, rfl⟩
  | .assign x p, s => p.run_answers_next (s.assign x)
  | .ask _ _ k, s => await_answers_next (fun a => (k a).run_answers_next) s

theorem enter_answers_next (p : Plan) (s : State) : ∃ t, p.enter s = .next t := by
  unfold enter
  split
  · exact p.run_answers_next s
  · exact p.run_answers_next s
  all_goals exact p.resume_answers_next s

end Plan

/-- A command in IDLE, or in a phase in which it waits, answers a next state. -/
theorem exec_answers_next {i : Instr} {s : State} (h : s.phase ≠ .idle → s.phase ∈ i.busPhases) :
    ∃ t, exec i s = .next t := by
  have hplan : ∃ p, i.planAt s.params s.cfgBuf s.phase = some p := by
    by_cases hidle : s.phase = .idle
    · obtain ⟨p, hp⟩ := Instr.planAt_idle i s.params
      exact ⟨p, hidle ▸ hp _⟩
    · exact planAt_busPhases _ _ i _ (h hidle)
  obtain ⟨p, hp⟩ := hplan
  rw [exec_eq_enter, hp]
  exact p.enter_answers_next s

/-- The accepted operation of a state that meets the invariant answers a next state, a reserved opcode's too (R85). -/
theorem State.Inv.runOperation_answers_next {s : State} (hs : s.Inv) : ∃ t, Machine.runOperation s = .next t := by
  cases hi : decodeFields s.opc s.opa s.opb with
  | error e => exact ⟨s.finish .illegalCommand 0, by rw [Machine.runOperation, hi]; rfl⟩
  | ok i =>
    rw [runOperation_ok hi]
    refine exec_answers_next fun hne => ?_
    obtain ⟨j, req, hj, hout, -⟩ := hs.waiting hne
    obtain rfl : i = j := Except.ok.inj (hi.symm.trans hj)
    exact (List.of_mem_zip hout).1

end Sys2Proof.Machine

namespace Sys2Proof

open Sys2Proof.Machine

/-- Settles O51: a step resets the block, does nothing, or runs the operation of a state that meets the invariant. -/
theorem everyStepGoesOn : Obligations.EveryStepGoesOn := by
  intro s hs
  unfold step
  split
  · exact ⟨_, rfl⟩
  · next w l _ => exact ((hs.setHostIn l).accept w).runOperation_answers_next
  · split
    · exact ⟨_, rfl⟩
    · exact hs.runOperation_answers_next

end Sys2Proof
end

section
/-! Errors and aborts (O11, O37, O39 to O41): the status with which a plan can end, and what was issued before. -/

namespace Sys2Proof

open Sys2Proof.Machine

/-- What must be so for the command `i` to end with a status (R211 to R216). -/
def Instr.Cause (i : Instr) : Status → Prop
  | .ok | .registerLocked => True
  | .invalidParameter => i.wellFormed = false
  | .thresholdRangeError => ∃ u l, i = .setWindow u l ∧ topVal u - topVal l < 200
  | .busError => i.busFree = false
  | .identityMismatch => i = .init
  | .illegalCommand => False

namespace Machine

namespace Plan

/-- The plan waits outside IDLE, and each status it can end with satisfies `P`. -/
def EndsWith (P : Status → Prop) : Plan → Prop
  | .finish st _ => P st
  | .assign _ p => p.EndsWith P
  | .ask ph _ k => ph ≠ .idle ∧ ∀ a, (k a).EndsWith P

variable {P : Status → Prop}

@[simp] theorem endsWith_finish (st : Status) (v : Word) : (finish st v).EndsWith P ↔ P st := Iff.rfl

@[simp] theorem endsWith_assign (x : Assign) (p : Plan) : (assign x p).EndsWith P ↔ p.EndsWith P := Iff.rfl

@[simp] theorem endsWith_read (ph : Phase) (reg : Byte) (k : Word → Plan) :
    (read ph reg k).EndsWith P ↔ ph ≠ .idle ∧ P .busError ∧ ∀ bs, (k (wordOfBytes bs)).EndsWith P := by
  refine and_congr Iff.rfl ⟨fun h => ⟨h .error, fun bs => h (.data bs)⟩, fun ⟨herror, hk⟩ a => ?_⟩
  cases a with
  | data bs => exact hk bs
  | ack => exact herror
  | error => exact herror

@[simp] theorem endsWith_write (ph : Phase) (reg : Byte) (bs : List Byte) (p : Plan) :
    (write ph reg bs p).EndsWith P ↔ ph ≠ .idle ∧ P .busError ∧ p.EndsWith P := by
  refine and_congr Iff.rfl ⟨fun h => ⟨h .error, h .ack⟩, fun ⟨herror, hp⟩ a => ?_⟩
  cases a with
  | data _ => exact herror
  | ack => exact hp
  | error => exact herror

@[simp] theorem endsWith_ite {c : Prop} [Decidable c] {p q : Plan} :
    (if c then p else q).EndsWith P ↔ (c → p.EndsWith P) ∧ (¬ c → q.EndsWith P) := by
  split <;> simp [*]

/-- A plan carried out waits, or ends with one of its statuses. -/
theorem run_endsWith {t : State} : ∀ (p : Plan) (s : State), p.EndsWith P → p.run s = .next t → t.phase = .idle →
    ∃ u st v, t = State.finish st v u ∧ P st
  | .finish st v, s, hp, h, _ => by cases h; exact ⟨s, st, v, rfl, hp⟩
  | .assign x p, s, hp, h, hidle => p.run_endsWith (s.assign x) hp h hidle
  | .ask ph req k, s, ⟨hne, hk⟩, h, hidle => by
    obtain ⟨-, rfl⟩ | ⟨a, -, h⟩ := await_cases h
    · exact absurd hidle hne
    · exact (k a).run_endsWith _ (hk a) h hidle

/-- So does a plan entered in any phase. -/
theorem enter_endsWith {s t : State} (p : Plan) (hp : p.EndsWith P) (h : p.enter s = .next t)
    (hidle : t.phase = .idle) : ∃ u st v, t = State.finish st v u ∧ P st := by
  obtain h | ⟨ph, req, k, rfl, hne, h⟩ := enter_cases h
  · exact p.run_endsWith s hp h hidle
  · obtain ⟨-, rfl⟩ | ⟨a, -, h⟩ := await_cases h
    · exact absurd hidle hne
    · exact (k a).run_endsWith _ (hp.2 a) h hidle

end Plan

/-! ### The causes of each command's statuses -/

/-- A command without transactions ends with OK, or with InvalidParameter when an operand is not valid (R110, R186). -/
theorem planAt_busFree_endsWith {i : Instr} (hi : i.busFree = true) {ps : Params} {cfg : Word} {ph : Phase} {p : Plan}
    (h : i.planAt ps cfg ph = some p) : p.EndsWith i.Cause := by
  cases i <;> simp only [Instr.busFree, Bool.false_eq_true] at hi <;> obtain rfl := checkPlanAt_eq_some h
  case decTemp | decFlags => trivial
  case encThr a => simp [Plan.validated, Instr.Cause, Instr.wellFormed]
  case cfgGet a b => cases hf : fieldOfId b.toNat <;> simp [cfgGetPlan, Instr.Cause, Instr.wellFormed, hf]
  case cfgPut a b =>
    cases hf : fieldOfId (fidvalId b).toNat <;>
      simp [cfgPutPlan, Plan.validated, Instr.Cause, Instr.wellFormed, fidvalValid, hf]
  case setAddr a => simp [setAddrPlan, Instr.Cause, Instr.wellFormed]

theorem busFree_setter {i : Instr} {f : CfgField} {g : Bool} {a : Word} (hi : i.setter? = some (f, g, a)) :
    i.busFree = false := by
  cases i <;> simp only [Instr.setter?, reduceCtorEq] at hi <;> rfl

theorem busFree_getter {i : Instr} {f : CfgField} (hi : i.getter? = some f) : i.busFree = false := by
  cases i <;> simp only [Instr.getter?, reduceCtorEq] at hi <;> rfl

/-- SET_WINDOW's tests: each error they raise has its cause (R184). -/
theorem windowCheckPlan_endsWith (u l cfg : Word) :
    (windowCheckPlan u l cfg).EndsWith (Instr.setWindow u l).Cause := by
  unfold windowCheckPlan
  split
  · trivial
  · split
    · next hvalid => simpa [Instr.Cause, Instr.wellFormed, imp_iff_not_or] using hvalid
    · split
      · next hgap => exact ⟨u, l, rfl, Int.not_le.1 (mt (gapOk_iff u l).2 (by simpa using hgap))⟩
      · simp [windowWrite1Plan, windowWrite2Plan, Instr.Cause, Instr.busFree]

/-- Every status a command's plan can end with has its cause. -/
theorem planAt_endsWith (ps : Params) (cfg : Word) (ph : Phase) (i : Instr) :
    ∀ p, i.planAt ps cfg ph = some p → p.EndsWith i.Cause := by
  induction i using Instr.cases_shape with
  | busFree i hi => exact fun p h => planAt_busFree_endsWith hi h
  | setter i f g a hi =>
    intro p h
    rw [Instr.planAt_setter hi] at h
    cases ph <;> cases h <;>
      simp [rmwPlan, rmwCheckPlan, rmwWritePlan, Instr.Cause, busFree_setter hi, (setter_facts hi).2.2.1]
  | getter i f hi =>
    intro p h
    rw [Instr.planAt_getter hi] at h
    cases ph <;> cases h <;> simp [getPlan, Instr.Cause, busFree_getter hi]
  | init =>
    intro p h
    cases ph <;> cases h <;> simp [initPlan, initPlan2, Instr.Cause, Instr.busFree]
  | temp i hi =>
    intro p h
    have hbus : i.busFree = false := by obtain rfl | rfl := hi <;> rfl
    obtain ⟨g, hg⟩ := Instr.planAt_temp hi
    rw [hg] at h
    cases ph <;> cases h <;> simp [tempPlan, Instr.Cause, hbus]
  | setResolution a =>
    intro p h
    cases ph <;> cases h <;> simp [resPlan, resWritePlan, Instr.Cause, Instr.busFree, Instr.wellFormed]
  | setWindow u l =>
    intro p h
    cases ph <;> cases h <;>
      simp [windowPlan, windowCheckPlan_endsWith, windowWrite1Plan, windowWrite2Plan, Instr.Cause, Instr.busFree]
  | setCrit a =>
    intro p h
    cases ph <;> cases h <;>
      simp [critPlan, critCheckPlan, critWritePlan, Instr.Cause, Instr.busFree, Instr.wellFormed]
  | clearInt =>
    intro p h
    cases ph <;> cases h <;> simp [clearIntPlan, clearIntWritePlan, Instr.Cause, Instr.busFree]

/-- No two statuses have the same code (R210). -/
theorem status_code_inj {st st' : Status} (h : st.code = st'.code) : st = st' := by
  revert h
  cases st <;> cases st' <;> decide

/-- A command that has ended has ended with a status that has its cause. -/
theorem exec_cause {i : Instr} {s t : State} (h : exec i s = .next t) (hidle : t.phase = .idle) :
    ∃ st, t.status = st.code ∧ i.Cause st := by
  obtain ⟨p, hp, hrun⟩ := exec_planned h
  obtain ⟨u, st, v, rfl, hcause⟩ := p.enter_endsWith (planAt_endsWith _ _ _ i p hp) hrun hidle
  exact ⟨st, rfl, hcause⟩

/-- No decoded command ends with IllegalCommand, the highest code (R210, R216). -/
theorem code_le_of_cause {i : Instr} {st : Status} (h : i.Cause st) : st.code.toNat ≤ 5 := by
  cases st with
  | illegalCommand => exact h.elim
  | ok | invalidParameter | registerLocked | thresholdRangeError | busError | identityMismatch => decide

/-! ### The lock guard -/

/-- The gated commands are the gated field setters, SET_WINDOW and SET_CRIT (R84, R141). -/
theorem gated_cases {i : Instr} (h : i.gated = true) :
    (∃ f a, i.setter? = some (f, true, a)) ∨ (∃ u l, i = .setWindow u l) ∨ ∃ a, i = .setCrit a := by
  cases i <;> simp only [Instr.gated, Bool.false_eq_true] at h
  case setWindow u l => exact .inr (.inl ⟨u, l, rfl⟩)
  case setCrit a => exact .inr (.inr ⟨a, rfl⟩)
  all_goals exact .inl ⟨_, _, rfl⟩

/-- A gated command that reads a word with a lock bit set ends with RegisterLocked at once (R141, R212). -/
theorem exec_gated_locked {i : Instr} {s : State} {b0 b1 : Byte} (hi : i.gated = true) (hs : s.phase = .idle)
    (ha : (s.issue .rdCfg (.read s.devAddr 0x01 2)).answer (.read s.devAddr 0x01 2) = some (.data [b0, b1]))
    (hl : (b0 ++ b1 : Word).extractLsb' 6 2 ≠ 0) :
    exec i s = .next ((((s.issue .rdCfg (.read s.devAddr 0x01 2)).served (.read s.devAddr 0x01 2)).setCfgBuf
      (b0 ++ b1)).ended 2 true 0) := by
  obtain ⟨f, a, hset⟩ | ⟨u, l, rfl⟩ | ⟨a, rfl⟩ := gated_cases hi
  · obtain ⟨-, -, hread⟩ := fieldSettersReadGuardValidateWrite i f true a s hset hs
    exact (hread b0 b1 ha).1 rfl hl
  · obtain ⟨-, -, hread⟩ := setWindowTestsThenWritesBoth u l s hs
    exact (hread b0 b1 ha).1 hl
  · obtain ⟨-, -, hread⟩ := setCritTestsThenWrites a s hs
    exact (hread b0 b1 ha).1 hl

/-! ### The marker and the transactions -/

/-- However an operation ends, PCR is set exactly with RegisterLocked (R225). -/
theorem finish_marker (st : Status) (v : Word) (s : State) :
    (s.finish st v).pcr = true ↔ (s.finish st v).status = 2 := (status_code_cases st).2.1

/-- Every transaction of a command carries the bus address (R23). -/
theorem addr_of_mem_transactions {i : Instr} {A : Addr7} {cfg : Word} {r : BusRequest}
    (h : r ∈ i.transactions A cfg) : r.addr = A := by
  have hall : ∀ r ∈ i.transactions A cfg, r.addr = A := by
    cases i <;> simp [Instr.transactions, rmwTransactions, BusRequest.addr]
  exact hall r h

end Machine

/-- Settles O11. -/
theorem raiseAndDoneWriteTheResponse : Obligations.RaiseAndDoneWriteTheResponse :=
  ⟨fun _ => rfl, fun _ => rfl, fun _ => rfl, fun _ => rfl, fun _ => rfl, fun _ => rfl, fun _ _ => rfl⟩

/-- Settles O37: the next state of a gated command that finds a lock bit, part by part. -/
theorem gatedCommandsStopAtTheLock : Obligations.GatedCommandsStopAtTheLock :=
  fun _ _ _ _ hi hs ha hl => ⟨_, exec_gated_locked hi hs ha hl, rfl, rfl, rfl, rfl, rfl⟩

/-- Settles O39: the status a command has ended with has its cause, and its code is no other's. -/
theorem statusesHaveTheirCauses : Obligations.StatusesHaveTheirCauses := by
  intro i s t h hidle
  obtain ⟨st, hst, hcause⟩ := exec_cause h hidle
  have cause_of_code : ∀ st', t.status = st'.code → i.Cause st' := fun st' h' =>
    status_code_inj (hst.symm.trans h') ▸ hcause
  exact ⟨hst ▸ code_le_of_cause hcause, cause_of_code .invalidParameter, cause_of_code .thresholdRangeError,
    cause_of_code .busError, cause_of_code .identityMismatch⟩

/-- Settles O40: a command that has ended has written its marker with its status, and so has a reserved opcode. -/
theorem markerSaysRegisterLocked : Obligations.MarkerSaysRegisterLocked := by
  intro s t h hidle
  unfold runOperation at h
  split at h
  · obtain ⟨hwaits, -⟩ | ⟨u, st, v, rfl, -⟩ := exec_endsOrWaits h
    · exact absurd hidle hwaits
    · exact finish_marker st v u
  · rw [raise_eq_next] at h
    subst h
    exact finish_marker _ 0 s

/-- Settles O41: what such an operation has issued is a part of its list and holds reads only. -/
theorem abortsBeforeAnyWrite : Obligations.AbortsBeforeAnyWrite := by
  intro i s t hs h hidle hok hbus
  obtain ⟨k, htrace, -, hend⟩ := exec_issued hs h
  refine ⟨_, htrace, fun r hr => ?_⟩
  obtain ⟨-, ⟨h0, -⟩ | h4 | ⟨-, -, hreads⟩⟩ | ⟨-, -, -, -, hwaits, -⟩ := hend
  · exact absurd h0 hok
  · exact absurd h4 hbus
  · obtain ⟨A, reg, rfl⟩ := hreads r hr
    obtain rfl : A = s.devAddr := addr_of_mem_transactions (List.mem_of_mem_take hr)
    exact ⟨reg, rfl⟩
  · exact absurd hidle hwaits

end Sys2Proof
end

section
/-! Reset (O9), the transactions of a command (O43), and waiting without an answer (O52). -/

namespace Sys2Proof.Machine

/-! ### A step that finds a reset -/

theorem step_reset {s : State} {l : List HostInput} (h : s.hostIn = .reset :: l) :
    step s = .next (s.setHostIn l).blockReset := by
  rw [step, h]

/-! ### What a transaction may be -/

/-- A request at the address `A` to a pointer of the map, of the width R55 gives: a read of CONFIG, TEMPERATURE or an
identity register, a write of CONFIG or a threshold, or the one-byte write of RESOLUTION (R57). -/
def BusRequest.OfTheMap (A : Addr7) (r : BusRequest) : Prop :=
  (∃ reg ∈ [0x01, 0x05, 0x06, 0x07], r = .read A reg 2) ∨
  (∃ reg ∈ [0x01, 0x02, 0x03, 0x04], ∃ x y, r = .write A reg [x, y]) ∨
  ∃ x, r = .write A 0x08 [x]

theorem ofTheMap_read {reg : Byte} (A : Addr7) (h : reg ∈ [0x01, 0x05, 0x06, 0x07]) :
    (BusRequest.read A reg 2).OfTheMap A := .inl ⟨reg, h, rfl⟩

theorem ofTheMap_write {reg : Byte} (A : Addr7) (w : Word) (h : reg ∈ [0x01, 0x02, 0x03, 0x04]) :
    (BusRequest.write A reg (bytesOfWord w)).OfTheMap A := .inr (.inl ⟨reg, h, hiByte w, loByte w, rfl⟩)

theorem ofTheMap_writeResolution (A : Addr7) (x : Byte) : (BusRequest.write A 0x08 [x]).OfTheMap A :=
  .inr (.inr ⟨x, rfl⟩)

/-- The list of a command holds three transactions at most (R250). -/
theorem length_transactions_le (A : Addr7) (cfg : Word) (i : Instr) : (i.transactions A cfg).length ≤ 3 := by
  cases i <;> simp [Instr.transactions, rmwTransactions]

/-- Every transaction of a command is one of the map's, at the bus address (R23, R55, R57). -/
theorem transactions_ofTheMap (A : Addr7) (cfg : Word) (i : Instr) : ∀ r ∈ i.transactions A cfg, r.OfTheMap A := by
  induction i using Instr.cases_shape with
  | busFree i hi => cases i <;> simp only [Instr.busFree, Bool.false_eq_true] at hi <;> simp [Instr.transactions]
  | setter i f g a hi => simp [transactions_setter hi, ofTheMap_read, ofTheMap_write]
  | getter i f hi => simp [transactions_getter hi, ofTheMap_read]
  | temp i hi => obtain rfl | rfl := hi <;> simp [Instr.transactions, ofTheMap_read]
  | init => simp [Instr.transactions, ofTheMap_read]
  | setResolution a => exact List.forall_mem_singleton.2 (ofTheMap_writeResolution A (loByte a))
  | setWindow u l => simp [Instr.transactions, ofTheMap_read, ofTheMap_write]
  | setCrit a => simp [Instr.transactions, ofTheMap_read, ofTheMap_write]
  | clearInt => simp [Instr.transactions, ofTheMap_read, ofTheMap_write]

/-! ### Waiting without an answer -/

/-- A state that a step leaves as it is stays so for any number of steps. -/
theorem run_of_step_eq_self {M : Host.Core} {s : M.State} (h : M.step s = .next s) : ∀ n, M.run n s = .next s
  | 0 => rfl
  | n + 1 => by
    rw [Host.Core.run, h]
    exact run_of_step_eq_self h n

/-- In a phase in which a command waits, its plan is to ask (R162). -/
theorem planAt_busPhases_asks (ps : Params) (cfg : Word) (i : Instr) :
    ∀ ph ∈ i.busPhases, ph ≠ .idle ∧ ph ≠ .check ∧ ∃ req k, i.planAt ps cfg ph = some (.ask ph req k) := by
  induction i using Instr.cases_shape with
  | busFree i hi => simp [busPhases_busFree hi]
  | setter i f g a hi =>
    simp [(setter_facts hi).1, Instr.planAt_setter hi, rmwPlanAt, rmwPlan, rmwWritePlan, Plan.read, Plan.write]
  | getter i f hi => simp [busPhases_getter hi, Instr.planAt_getter hi, getPlanAt, getPlan, Plan.read]
  | temp i hi =>
    obtain rfl | rfl := hi <;> simp [Instr.busPhases, Instr.planAt, tempPlanAt, tempPlan, Plan.read]
  | init => simp [Instr.busPhases, Instr.planAt, initPlanAt, initPlan, initPlan2, Plan.read]
  | setResolution a => simp [Instr.busPhases, Instr.planAt, resPlanAt, resWritePlan, Plan.write]
  | setWindow u l =>
    simp [Instr.busPhases, Instr.planAt, windowPlanAt, windowPlan, windowWrite1Plan, windowWrite2Plan, Plan.read,
      Plan.write]
  | setCrit a => simp [Instr.busPhases, Instr.planAt, critPlanAt, critPlan, critWritePlan, Plan.read, Plan.write]
  | clearInt =>
    simp [Instr.busPhases, Instr.planAt, clearIntPlanAt, clearIntPlan, clearIntWritePlan, Plan.read, Plan.write]

section Unanswered

variable {s : State}

/-- With nothing scripted and no device attached a request is not answered (log 5). -/
theorem answer_unattended (hscript : s.script = []) (hdev : s.refDev = none) (req : BusRequest) :
    s.answer req = none := by
  rw [State.answer, hscript, hdev, serve_nil_none]

theorem served_unattended (hscript : s.script = []) (hdev : s.refDev = none) (req : BusRequest) :
    s.served req = s := by
  rw [State.served, hscript, hdev, serve_nil_none, ← hscript, ← hdev]

/-- A command in a phase in which it waits stays in it while nothing answers (R51, R52). -/
theorem exec_unanswered {i : Instr} (hph : s.phase ∈ i.busPhases) (hscript : s.script = []) (hdev : s.refDev = none) :
    exec i s = .next s := by
  obtain ⟨hidle, hcheck, req, k, hplan⟩ := planAt_busPhases_asks s.params s.cfgBuf i _ hph
  calc exec i s = await (req s.devAddr) (fun a => (k a).run) s := exec_resumes hidle hcheck hplan
    _ = .next (s.served (req s.devAddr)) := await_none _ (answer_unattended hscript hdev _)
    _ = .next s := by rw [served_unattended hscript hdev]

end Unanswered

end Sys2Proof.Machine

namespace Sys2Proof

open Sys2Proof.Machine

/-- Settles O9: the state after the step is `blockReset` of the state without the reset, field by field. -/
theorem resetActsInEveryPhase : Obligations.ResetActsInEveryPhase :=
  fun _ _ h => ⟨_, step_reset h, rfl, rfl, rfl, rfl, rfl, rfl, rfl, rfl, rfl, rfl, rfl⟩

/-- Settles O43: what a command issues is a beginning of its list of R187, which is short and holds such requests only. -/
theorem transactionsAreFewAndWellFormed : Obligations.TransactionsAreFewAndWellFormed := by
  intro i s t hs h
  obtain ⟨rs, htrace, hprefix, -⟩ := transactionsFollowTheList i s t hs h
  exact ⟨rs, htrace, hprefix.length_le.trans (length_transactions_le _ _ i),
    fun r hr => transactions_ofTheMap _ _ i r (hprefix.subset hr)⟩

/-- Settles O52: the command that waits, by the invariant, in a phase of its own answers the state it is in. -/
theorem unansweredOperationWaitsForEver : Obligations.UnansweredOperationWaitsForEver := by
  intro s n hs hne hhost hscript hdev
  obtain ⟨i, req, hi, hout, -⟩ := hs.waiting hne
  have hph : s.phase ∈ i.busPhases := (List.of_mem_zip hout).1
  have hstep : step s = .next s := by
    rw [step_waiting hne hhost, runOperation_ok hi, exec_unanswered hph hscript hdev]
  exact run_of_step_eq_self (M := core) hstep n

end Sys2Proof
end
